-- ==== Sys2Proof/Word.lean ====
section
/-! DEFINITION. The word types of the FCSP (00_scope.md R7 DATA_W, R8): a register of up to 32 bits is
transferred as one 32-bit word, and the digit buffers hold bytes. -/

namespace Sys2Proof

/-- The 32-bit word every host access moves and every command is (20_memory.md R50, 30_encoding.md R70). -/
abbrev Word := BitVec 32

/-- One byte of a digit buffer, or an 8-bit register (10_state.md R33, R34). -/
abbrev Byte := BitVec 8

/-- An output channel's index: the 4-bit unsigned field CH, used as it stands (30_encoding.md R73). -/
abbrev Channel := BitVec 4

end Sys2Proof
end

