-- ==== Sys2Proof/Config.lean ====
section
/-! DEFINITION. What an implementation fixes (00_scope.md R7): the one open parameter N_OUT. It stands in
State (field `cfg`) and no step changes it, so a statement about every state is about every N_OUT
(log 1: DESIGN CHOICE). The fixed sizes of the buffers stand in their types (State.lean). -/

namespace Sys2Proof

/-- The named parameters of one FCSP (00_scope.md R7). -/
structure Config where
  /-- N_OUT, the number of synthesizer output channels, in 2..16 (R7, 92_eei_decisions.md D17). -/
  nOut : Nat
deriving DecidableEq, Repr

/-- The range of N_OUT (00_scope.md R7). -/
abbrev Config.Valid (c : Config) : Prop := 2 ≤ c.nOut ∧ c.nOut ≤ 16

/-- N_OUT = 3, the default the spec names (00_scope.md R7: "Default 3 [from general knowledge, not in
source]"; 93_implementation_defined.md G2). -/
def Config.default : Config := { nOut := 3 }

end Sys2Proof
end

