-- ==== Sys2Proof/Syntax.lean ====
section
/-! DEFINITION. The command set, whole (30_encoding.md R71: one constructor for each row of
spec/opcode_table.json), the names of the registers (10_state.md R21), the host's accesses
(20_memory.md R50) and the host-program statements (30_encoding.md R78). -/

namespace Sys2Proof

/-- The commands. No command carries an operand but PLAN's channel (30_encoding.md R72). -/
inductive Instr where
  /-- NOP (43_control.md R150). -/
  | nop
  /-- DEC, decodeFrequency (40_codec.md R101). -/
  | dec
  /-- ENC, encodeFrequency (40_codec.md R102). -/
  | enc
  /-- PLAN ch, the synthesizer planner for one output channel (41_planner.md R121). -/
  | plan (ch : Channel)
  /-- BAND, transmit filter band selection (42_band.md R141). -/
  | band
  /-- The table's row "(illegal)": a command word that `legal` rejects (43_control.md R151). The word is
  kept so that the encoder can give it back; its effect does not depend on it (log 7). -/
  | illegal (w : Word)
deriving DecidableEq, Repr

/-- The registers of 10_state.md R21 by name. -/
inductive Reg where
  | cmd
  | status
  | term
  | dlen
  | freq
  | vco
  | target
  | rdiv
  | band
  | outen
  | ibuf (i : Fin 16)
  | obuf (i : Fin 5)
  | p1 (ch : Channel)
  | p2 (ch : Channel)
  | p3 (ch : Channel)
  | prdiv (ch : Channel)
deriving DecidableEq, Repr

/-- What can reach the block from outside: the host's two access primitives (20_memory.md R50), with
the size as the host gives it, and the platform's reset event (70_reset_and_hazards.md R180; log 5). -/
inductive HostAccess where
  /-- MemRead(addr, size). -/
  | read (addr size : Nat)
  /-- MemWrite(addr, size, v). -/
  | write (addr size : Nat) (v : Word)
  /-- The platform asserts reset. -/
  | reset
deriving DecidableEq, Repr

/-- A register in a host statement: "given by name … or by address" (30_encoding.md R78). -/
inductive RegRef where
  | name (r : Reg)
  | addr (a : Nat)
deriving DecidableEq, Repr

/-- One statement of a host program, the pseudo-statements among them (30_encoding.md R78). The rule states no
range for the operands of LDBUF, DECODE and PLANF: DEDUCED (log 12), each is any 32-bit value, as in the `WR`
it expands to. -/
inductive Stmt where
  | nop
  | dec
  | enc
  | plan (ch : Channel)
  | band
  /-- `CMD w`: write a raw command word, legal or not. -/
  | cmd (w : Word)
  /-- `WR reg, v`. -/
  | wr (r : RegRef) (v : Word)
  /-- `RD reg`. -/
  | rd (r : RegRef)
  /-- `LDBUF b0, …, bn`. -/
  | ldbuf (bs : List Word)
  /-- `DECODE b0, …, bn`. -/
  | decode (bs : List Word)
  /-- `PLANF ch, vco, target, rdiv`. -/
  | planf (ch : Channel) (vco target rdiv : Word)
deriving DecidableEq, Repr

end Sys2Proof
end

