-- ==== Sys2Proof/Decode.lean ====
section
/-! DEFINITION. Command words to commands and back (30_encoding.md R70 to R77). Every command is one
32-bit word, transferred as one value, so no byte order enters (20_memory.md R51, 30_encoding.md R77).
A word that is no legal command is refused by name inside `decodeLegal`; the hardware gives such a word a
meaning of its own (43_control.md R151), so `decode` answers the command `illegal` for it. -/

namespace Sys2Proof

/-- OP = w[3:0] (30_encoding.md R70). -/
def opField (w : Word) : BitVec 4 := w.extractLsb' 0 4

/-- CH = w[7:4] (30_encoding.md R70, R73). -/
def chField (w : Word) : Channel := w.extractLsb' 4 4

/-- RSV = w[31:8] (30_encoding.md R70, R74). -/
def rsvField (w : Word) : BitVec 24 := w.extractLsb' 8 24

/-- The predicate legal(w) of 30_encoding.md R75. -/
def legal (c : Config) (w : Word) : Bool :=
  rsvField w == 0 &&
    ((opField w == 0 || opField w == 1 || opField w == 2 || opField w == 4) && chField w == 0
      || opField w == 3 && decide ((chField w).toNat < c.nOut))

/-- Why a word is no legal command (30_encoding.md R76). -/
inductive DecodeError where
  /-- RSV is not zero (R74). -/
  | reservedField
  /-- OP is one of 0x5 to 0xF (R71). -/
  | reservedOpcode
  /-- CH is not zero in a command other than PLAN (R73). -/
  | channelField
  /-- PLAN of a channel that does not exist, CH ≥ N_OUT (R73). -/
  | noSuchChannel
deriving DecidableEq, Repr

/-- A command without a channel: CH must be 0 (30_encoding.md R73). -/
def withoutChannel (w : Word) (i : Instr) : Except DecodeError Instr :=
  if chField w = 0 then .ok i else .error .channelField

/-- The legal commands of 30_encoding.md R71; any other word is refused by the name of its defect. -/
def decodeLegal (c : Config) (w : Word) : Except DecodeError Instr :=
  if rsvField w ≠ 0 then .error .reservedField
  else if opField w = 0 then withoutChannel w .nop
  else if opField w = 1 then withoutChannel w .dec
  else if opField w = 2 then withoutChannel w .enc
  else if opField w = 3 then
    if (chField w).toNat < c.nOut then .ok (.plan (chField w)) else .error .noSuchChannel
  else if opField w = 4 then withoutChannel w .band
  else .error .reservedOpcode

/-- The command a word written to CMD runs: a legal one, or `illegal` (30_encoding.md R75, R76). -/
def decode (c : Config) (w : Word) : Instr :=
  match decodeLegal c w with
  | .ok i => i
  | .error _ => .illegal w

/-- A command word from its fields {RSV = 0, CH, OP} (30_encoding.md R70). -/
def commandWord (ch : Channel) (op : BitVec 4) : Word := (0 : BitVec 24) ++ ch ++ op

/-- The word of a command (30_encoding.md R70, R71; an illegal word is itself). -/
def encode : Instr → Word
  | .nop => commandWord 0 0
  | .dec => commandWord 0 1
  | .enc => commandWord 0 2
  | .plan ch => commandWord ch 3
  | .band => commandWord 0 4
  | .illegal w => w

/-- The instruction of a table row's bits, for the block as reset leaves it, with the default N_OUT
(log 8). A command is exactly 32 bits (30_encoding.md R77): a longer value is refused. -/
def decodeTableWord (nbits w : Nat) : Option Instr :=
  if w % 2 ^ nbits < 2 ^ 32 then
    some (decode Config.default (BitVec.ofNat 32 (w % 2 ^ nbits)))
  else none

end Sys2Proof
end

