-- ==== Sys2Proof/Machine/State.lean ====
section
/-! DEFINITION. The state of the FCSP: exactly the registers of 10_state.md R21 (R20), the parameter
N_OUT, and two fields of the model's own that stand for the host's side of the interface. The block has no
memory, no program counter and no mode (R40, R43; 60_exceptions.md R170). -/

namespace Sys2Proof.Machine

/-- The plan registers of one output channel, the source's SynthesizerPlan (10_state.md R35 to R38). -/
structure PlanRegs where
  /-- P1[ch], integerDivider (R35). -/
  p1 : Word
  /-- P2[ch], fracNumerator (R36). -/
  p2 : Word
  /-- P3[ch], fracDenominator (R37). -/
  p3 : Word
  /-- PRDIV[ch], rightDivider (R38). -/
  prdiv : Byte
deriving DecidableEq, Repr

/-- The reset value of a channel's plan registers (10_state.md R35 to R38). -/
def PlanRegs.zero : PlanRegs := { p1 := 0, p2 := 0, p3 := 0, prdiv := 0 }

/-- The machine's state. CMD has no storage, so it has no field (10_state.md R22). -/
structure State where
  /-- The block's parameters, constant during a run (00_scope.md R7; log 1). The model's own field. -/
  cfg : Config
  /-- STATUS: CODE [3:0], OVF [4], NDIG [5] (10_state.md R23). -/
  status : BitVec 6
  /-- TERM (10_state.md R25). -/
  term : Byte
  /-- DLEN (10_state.md R26). -/
  dlen : Byte
  /-- FREQ (10_state.md R27). -/
  freq : Word
  /-- VCO (10_state.md R28). -/
  vco : Word
  /-- TARGET (10_state.md R29). -/
  target : Word
  /-- RDIV (10_state.md R30). -/
  rdiv : Byte
  /-- BAND (10_state.md R31). -/
  band : BitVec 3
  /-- OUTEN: bit ch is the outputEnabled of channel ch (10_state.md R32). 16 bits of room, the largest
  N_OUT; a read answers the low N_OUT bits (log 9). -/
  outen : BitVec 16
  /-- IBUF[0..15] (10_state.md R33). -/
  ibuf : Vector Byte 16
  /-- OBUF[0..4] (10_state.md R34). -/
  obuf : Vector Byte 5
  /-- P1, P2, P3 and PRDIV of each channel (10_state.md R35 to R38); a slot at N_OUT or above is no
  register of the block and no access reaches it (log 9). -/
  plans : Vector PlanRegs 16
  /-- The accesses the host (and the platform's reset) will make, the next one first (20_memory.md R60;
  log 2). The model's own field. -/
  pending : List HostAccess
  /-- The value the latest MemRead answered, none before the first (20_memory.md R50; log 3). The model's
  own field. -/
  rdata : Option Word
deriving DecidableEq, Repr

/-- Faults: NONE. "The block never traps, halts or interrupts" (60_exceptions.md R160); an error outcome is
a value of STATUS.CODE. The type has no constructor, so no step can answer a fault. -/
inductive Fault where
deriving DecidableEq, Repr

/-- Why a step answers no state. -/
inductive Refusal where
  /-- An instruction without a meaning yet, by its mnemonic. No arm of `exec` raises it. Safe. -/
  | notModelled (mnemonic : String)
  /-- Raised by `perform`: a host access whose size is not 4, which "is not a host operation of this
  block: a model refuses it" (20_memory.md R50). Safe. -/
  | accessSize (size : Nat)
  /-- Raised by `perform`: a host access outside 0..255, refused by the same rule (20_memory.md R50).
  Safe. -/
  | accessAddress (addr : Nat)
deriving DecidableEq, Repr

/-- The block right after reset (70_reset_and_hazards.md R180), for any parameters, no access pending. -/
def State.resetFor (c : Config) : State where
  cfg := c
  status := 0
  term := 0xFD
  dlen := 6
  freq := 0
  vco := 0
  target := 0
  rdiv := 0
  band := 4
  outen := 0
  ibuf := Vector.replicate 16 0
  obuf := Vector.replicate 5 0
  plans := Vector.replicate 16 PlanRegs.zero
  pending := []
  rdata := none

/-- The machine right after reset, with the default N_OUT (log 1). -/
def State.reset : State := State.resetFor Config.default

end Sys2Proof.Machine
end

