-- ==== Sys2Proof/Machine/Flags.lean ====
section
/-! DEFINITION. The block's only flags: the fields of STATUS (10_state.md R23, R24, R41). -/

namespace Sys2Proof.Machine

/-- The values of STATUS.CODE that a command can produce (10_state.md R24). -/
inductive Code where
  /-- The command completed. -/
  | ok
  /-- MalformedFrame, from DEC (60_exceptions.md R162). -/
  | malformedFrame
  /-- FrequencyOutOfRange, from PLAN (60_exceptions.md R163). -/
  | freqOutOfRange
  /-- IllegalCommand, from an illegal word (60_exceptions.md R164). -/
  | illegalCommand
deriving DecidableEq, Repr

/-- The number of a code (10_state.md R24). -/
def Code.value : Code → BitVec 4
  | .ok => 0
  | .malformedFrame => 1
  | .freqOutOfRange => 2
  | .illegalCommand => 3

/-- {NDIG, OVF, CODE[3:0]}, the implemented bits of STATUS (00_scope.md R10, 10_state.md R23). -/
def statusOf (code : Code) (ovf ndig : Bool) : BitVec 6 :=
  BitVec.ofBool ndig ++ BitVec.ofBool ovf ++ code.value

/-- STATUS.CODE = STATUS[3:0] (10_state.md R23). -/
def statusCode (st : BitVec 6) : BitVec 4 := st.extractLsb' 0 4

/-- STATUS.OVF = STATUS[4] (10_state.md R23). -/
def statusOvf (st : BitVec 6) : Bool := st.getLsbD 4

/-- STATUS.NDIG = STATUS[5] (10_state.md R23). -/
def statusNdig (st : BitVec 6) : Bool := st.getLsbD 5

end Sys2Proof.Machine
end

