-- ==== Sys2Proof/Machine/Operands.lean ====
section
/-! DEFINITION. What the commands compute, as functions of register values: the digit strings of the codec
(40_codec.md R100 to R102), the divider arithmetic of the planner (41_planner.md R120, R121) and the band
rule (42_band.md R140). Every computation is on exact integers and narrowed at the end (00_scope.md R9). -/

namespace Sys2Proof.Machine

/-! ### Constants (00_scope.md R6, R7) -/

/-- IBUF_LEN (R7). -/
def ibufLen : Nat := 16
/-- F_MIN, inclusive (R6). -/
def fMin : Nat := 500000
/-- F_MAX, inclusive (R6). -/
def fMax : Nat := 109000000
/-- 2^C_BITS: the reduced denominator is below it (R6). -/
def cLimit : Nat := 2 ^ 20
/-- FRAC_SCALE (R6). -/
def fracScale : Nat := 128
/-- P1_OFFSET (R6). -/
def p1Offset : Nat := 512
/-- RDIV_SHIFT, 20 (R7, whose writer took it "[from general knowledge, not in source]"). -/
def rdivShift : Nat := 20
/-- BAND_T1 (R6). -/
def bandT1 : Nat := 21000000
/-- BAND_T2 (R6). -/
def bandT2 : Nat := 14000000
/-- BAND_T3 (R6). -/
def bandT3 : Nat := 7000000

/-! ### The codec's digit strings -/

/-- lo4(x) = x mod 16, the digit of even weight (00_scope.md R9, 40_codec.md R100). -/
def lo4 (x : Byte) : Nat := x.toNat % 16

/-- hi4(x) = (x div 16) mod 16, the digit of odd weight (00_scope.md R9, 40_codec.md R100). -/
def hi4 (x : Byte) : Nat := x.toNat / 16 % 16

/-- The buffer bound of DEC, min(DLEN, IBUF_LEN) (10_state.md R26, 40_codec.md R101). -/
def decodeBound (dlen : Byte) : Nat := min dlen.toNat ibufLen

/-- The bytes before the first byte equal to the terminator, none where no byte equals it
(40_codec.md R101: "first occurrence wins"). -/
def untilTerm (term : Byte) : List Byte → Option (List Byte)
  | [] => none
  | b :: bs => if b = term then some [] else (untilTerm term bs).map (b :: ·)

/-- Σ nibble · 10^k over the bytes, the first byte's low nibble at weight 10^k, exact (40_codec.md R100). -/
def digitSumFrom (k : Nat) : List Byte → Nat
  | [] => 0
  | b :: bs => lo4 b * 10 ^ k + hi4 b * 10 ^ (k + 1) + digitSumFrom (k + 2) bs

/-- The value of a digit string, its least significant pair first (20_memory.md R58). -/
def digitSum (bs : List Byte) : Nat := digitSumFrom 0 bs

/-- Some nibble is above 9, the condition of NDIG (40_codec.md R101). -/
def anyNonDigit (bs : List Byte) : Bool := bs.any fun b => decide (9 < lo4 b) || decide (9 < hi4 b)

/-- OBUF[i] of ENC: the digits of weight 10^(2i) and 10^(2i+1), low digit low (40_codec.md R102). -/
def encodeByte (v i : Nat) : Byte :=
  BitVec.ofNat 8 ((v / 10 ^ (2 * i + 1) % 10) <<< 4 ||| v / 10 ^ (2 * i) % 10)

/-- The five bytes of ENC (40_codec.md R102). -/
def encodeBytes (v : Nat) : Vector Byte 5 :=
  #v[encodeByte v 0, encodeByte v 1, encodeByte v 2, encodeByte v 3, encodeByte v 4]

/-! ### The planner's divider arithmetic -/

/-- The supported range, both ends inclusive (41_planner.md R120). -/
def inRange (t : Nat) : Bool := decide (fMin ≤ t) && decide (t ≤ fMax)

/-- The reduction loop of 41_planner.md R121: while c ≥ 2^20, shift b and c right by one. The first argument
bounds the number of turns; 32 turns are enough for every 32-bit c (`reduce_snd_lt` in Laws/Operands.lean). -/
def reduce : Nat → Nat × Nat → Nat × Nat
  | 0, bc => bc
  | n + 1, (b, c) => if cLimit ≤ c then reduce n (b / 2, c / 2) else (b, c)

/-- (b, c) after the loop (41_planner.md R121). -/
def reducedRatio (v t : Nat) : Nat × Nat := reduce 32 (v % t, t)

/-- fracPart fp = (128·b) div c (41_planner.md R121). -/
def fracPart (b c : Nat) : Nat := fracScale * b / c

/-- The exact integer field I = 128·a + fp − 512, which may be negative (41_planner.md R121). -/
def integerField (a fp : Nat) : Int := (fracScale * a + fp : Nat) - (p1Offset : Int)

/-- The plan of an in-range target: P1 = (I mod 2^32) | (r << RDIV_SHIFT), P2 = 128·b − fp·c, P3 = c,
PRDIV = r (41_planner.md R121). -/
def planFor (v t : Nat) (r : Byte) : PlanRegs :=
  let a := v / t
  let b := (reducedRatio v t).1
  let c := (reducedRatio v t).2
  let fp := fracPart b c
  { p1 := BitVec.ofInt 32 (integerField a fp) ||| r.setWidth 32 <<< rdivShift
    p2 := BitVec.ofNat 32 (fracScale * b - fp * c)
    p3 := BitVec.ofNat 32 c
    prdiv := r }

/-! ### The band rule -/

/-- band(f), the first test that holds decides (42_band.md R140). -/
def bandOf (f : Nat) : BitVec 3 :=
  if f > bandT1 then 1
  else if f ≥ bandT2 then 2
  else if f > bandT3 then 3
  else 4

end Sys2Proof.Machine
end

