-- ==== Sys2Proof/Machine/Ops.lean ====
section
/-! DEFINITION. The named operations over the registers (00_scope.md R10): one update per register,
`NAME <- v`, and the two ends of a command, `finish` and `raise`. The block has no trap: raising a cause is a
value of STATUS, nothing is saved, no mode changes and control goes nowhere (60_exceptions.md R160, R167), and
there is no return from it (R168). -/

namespace Sys2Proof.Machine

/-! ### NAME <- v -/

/-- STATUS <- v. -/
def State.setStatus (s : State) (v : BitVec 6) : State := { s with status := v }
/-- TERM <- v. -/
def State.setTerm (s : State) (v : Byte) : State := { s with term := v }
/-- DLEN <- v. -/
def State.setDlen (s : State) (v : Byte) : State := { s with dlen := v }
/-- FREQ <- v. -/
def State.setFreq (s : State) (v : Word) : State := { s with freq := v }
/-- VCO <- v. -/
def State.setVco (s : State) (v : Word) : State := { s with vco := v }
/-- TARGET <- v. -/
def State.setTarget (s : State) (v : Word) : State := { s with target := v }
/-- RDIV <- v. -/
def State.setRdiv (s : State) (v : Byte) : State := { s with rdiv := v }
/-- BAND <- v. -/
def State.setBand (s : State) (v : BitVec 3) : State := { s with band := v }
/-- OUTEN[ch] <- on (bit ch of OUTEN, 00_scope.md R10). -/
def State.setOuten (s : State) (ch : Channel) (on : Bool) : State :=
  { s with outen := if on then s.outen ||| BitVec.twoPow 16 ch.toNat
                    else s.outen &&& ~~~ BitVec.twoPow 16 ch.toNat }
/-- IBUF[i] <- v. -/
def State.setIbuf (s : State) (i : Fin 16) (v : Byte) : State :=
  { s with ibuf := s.ibuf.set i.val v i.isLt }
/-- OBUF[0..4] <- v. -/
def State.setObuf (s : State) (v : Vector Byte 5) : State := { s with obuf := v }
/-- P1[ch], P2[ch], P3[ch], PRDIV[ch] <- v. -/
def State.setPlan (s : State) (ch : Channel) (v : PlanRegs) : State :=
  { s with plans := s.plans.set ch.toNat v ch.isLt }
/-- The model's record of what a read answered (log 3). -/
def State.setRdata (s : State) (v : Word) : State := { s with rdata := some v }

/-- P1[ch], P2[ch], P3[ch], PRDIV[ch] as they stand. -/
def State.plan (s : State) (ch : Channel) : PlanRegs := s.plans[ch.toNat]'ch.isLt

/-! ### The end of a command -/

/-- finish(code, ovf, ndig) rewrites all of STATUS (00_scope.md R10, 10_state.md R23). -/
def finish (code : Code) (ovf ndig : Bool) (s : State) : State := s.setStatus (statusOf code ovf ndig)

/-- raise <Cause>: finish(<code of Cause>, 0, 0) "with no other state change" (00_scope.md R10). -/
def raise (cause : Code) (s : State) : State := finish cause false false s

/-- Reset: every register takes its reset value (70_reset_and_hazards.md R180). The parameter N_OUT is no
register; what the host will do next and what it has read are the host's (log 5). -/
def State.resetRegisters (s : State) : State :=
  { State.resetFor s.cfg with pending := s.pending, rdata := s.rdata }

end Sys2Proof.Machine
end

