-- ==== Sys2Proof/Machine/Band.lean ====
section
/-! DEFINITION. Transmit filter band selection: BAND (42_band.md). -/

namespace Sys2Proof.Machine

/-- BAND: BAND <- band(FREQ), for every frequency (42_band.md R141). -/
def execBand (s : State) : Host.Outcome State Fault Refusal :=
  .next (finish .ok false false (s.setBand (bandOf s.freq.toNat)))

end Sys2Proof.Machine
end

