-- ==== Sys2Proof/Machine/Codec.lean ====
section
/-! DEFINITION. The frequency codec: DEC and ENC (40_codec.md). -/

namespace Sys2Proof.Machine

/-- DEC (40_codec.md R101): search the terminator in IBUF[0..bound-1]; without one raise MalformedFrame with
FREQ unchanged; else FREQ <- the sum of the digits before it mod 2^32, with OVF and NDIG. -/
def execDec (s : State) : Host.Outcome State Fault Refusal :=
  match untilTerm s.term (s.ibuf.toList.take (decodeBound s.dlen)) with
  | none => .next (raise .malformedFrame s)
  | some bs =>
    .next (finish .ok (decide (2 ^ 32 ≤ digitSum bs)) (anyNonDigit bs)
      (s.setFreq (BitVec.ofNat 32 (digitSum bs))))

/-- ENC (40_codec.md R102): OBUF[0..4] <- the ten decimal digits of FREQ, two a byte. -/
def execEnc (s : State) : Host.Outcome State Fault Refusal :=
  .next (finish .ok false false (s.setObuf (encodeBytes s.freq.toNat)))

end Sys2Proof.Machine
end

