-- ==== Sys2Proof/Machine/Control.lean ====
section
/-! DEFINITION. The control commands: NOP and the illegal word (43_control.md). -/

namespace Sys2Proof.Machine

/-- NOP: finish(0, 0, 0) (43_control.md R150). -/
def execNop (s : State) : Host.Outcome State Fault Refusal := .next (finish .ok false false s)

/-- An illegal word executes nothing: raise IllegalCommand, whatever the word (43_control.md R151). -/
def execIllegal (_w : Word) (s : State) : Host.Outcome State Fault Refusal :=
  .next (raise .illegalCommand s)

end Sys2Proof.Machine
end

