-- ==== Sys2Proof/Machine/Planner.lean ====
section
/-! DEFINITION. The synthesizer divider planner: PLAN (41_planner.md). -/

namespace Sys2Proof.Machine

/-- PLAN ch (41_planner.md R121). Legality comes first (60_exceptions.md R165): a channel that does not exist
raises IllegalCommand. A target out of range disables the channel and computes nothing further (R163); else
the channel's plan is written and the channel enabled. -/
def execPlan (ch : Channel) (s : State) : Host.Outcome State Fault Refusal :=
  if s.cfg.nOut ≤ ch.toNat then .next (raise .illegalCommand s)
  else if inRange s.target.toNat then
    .next (finish .ok false false
      ((s.setPlan ch (planFor s.vco.toNat s.target.toNat s.rdiv)).setOuten ch true))
  else .next (raise .freqOutOfRange (s.setOuten ch false))

end Sys2Proof.Machine
end

