-- ==== Sys2Proof/Machine/Registers.lean ====
section
/-! DEFINITION. The address map and the host's view of the registers (10_state.md R21; 20_memory.md R52 to
R55): which address names which register, what a read of a register answers, what a write stores. -/

namespace Sys2Proof.Machine

/-- The address of a register (10_state.md R21). -/
def addrOf : Reg → Nat
  | .cmd => 0x00
  | .status => 0x01
  | .term => 0x02
  | .dlen => 0x03
  | .freq => 0x04
  | .vco => 0x05
  | .target => 0x06
  | .rdiv => 0x07
  | .band => 0x08
  | .outen => 0x09
  | .ibuf i => 0x10 + i.val
  | .obuf i => 0x20 + i.val
  | .p1 ch => 0x40 + 4 * ch.toNat
  | .p2 ch => 0x40 + 4 * ch.toNat + 1
  | .p3 ch => 0x40 + 4 * ch.toNat + 2
  | .prdiv ch => 0x40 + 4 * ch.toNat + 3

/-- The plan register at offset k from 0x40: P1, P2, P3, PRDIV of channel k div 4 in turn (20_memory.md
R52). -/
def planReg (k : Nat) : Reg :=
  let ch : Channel := BitVec.ofNat 4 (k / 4)
  if k % 4 = 0 then .p1 ch else if k % 4 = 1 then .p2 ch else if k % 4 = 2 then .p3 ch else .prdiv ch

/-- The registers of the addresses 0x00 to 0x0F; 0x0A to 0x0F are unmapped (20_memory.md R52). -/
def controlReg : Nat → Option Reg
  | 0x00 => some .cmd
  | 0x01 => some .status
  | 0x02 => some .term
  | 0x03 => some .dlen
  | 0x04 => some .freq
  | 0x05 => some .vco
  | 0x06 => some .target
  | 0x07 => some .rdiv
  | 0x08 => some .band
  | 0x09 => some .outen
  | _ => none

/-- The register an address names, none for an unmapped address (20_memory.md R52). N_OUT is at most 16, so
the plan registers end below 0x80 (log 10). -/
def regAt (c : Config) (a : Nat) : Option Reg :=
  if a < 0x10 then controlReg a
  else if h : 0x10 ≤ a ∧ a < 0x20 then some (.ibuf ⟨a - 0x10, by omega⟩)
  else if h : 0x20 ≤ a ∧ a < 0x25 then some (.obuf ⟨a - 0x20, by omega⟩)
  else if 0x40 ≤ a ∧ a < 0x40 + 4 * c.nOut ∧ a < 0x80 then some (planReg (a - 0x40))
  else none

/-- The low N_OUT bits of OUTEN; bits N_OUT to 31 read 0 (10_state.md R32, 20_memory.md R54). -/
def outenBits (s : State) : BitVec 16 := s.outen &&& BitVec.ofNat 16 (2 ^ s.cfg.nOut - 1)

/-- What a read of a register answers: its value with zero high bits, 0 for CMD (20_memory.md R54, R55;
43_control.md R153). -/
def readReg (s : State) : Reg → Word
  | .cmd => 0
  | .status => s.status.setWidth 32
  | .term => s.term.setWidth 32
  | .dlen => s.dlen.setWidth 32
  | .freq => s.freq
  | .vco => s.vco
  | .target => s.target
  | .rdiv => s.rdiv.setWidth 32
  | .band => s.band.setWidth 32
  | .outen => (outenBits s).setWidth 32
  | .ibuf i => (s.ibuf[i.val]'i.isLt).setWidth 32
  | .obuf i => (s.obuf[i.val]'i.isLt).setWidth 32
  | .p1 ch => (s.plan ch).p1
  | .p2 ch => (s.plan ch).p2
  | .p3 ch => (s.plan ch).p3
  | .prdiv ch => (s.plan ch).prdiv.setWidth 32

/-- What a write to a register other than CMD stores: a read-write register of width w takes v[w-1:0], a
read-only register nothing (20_memory.md R54, R55; 43_control.md R152). A write to CMD stores nothing here: it
runs a command (`memWrite`). -/
def writeReg (s : State) (r : Reg) (v : Word) : State :=
  match r with
  | .cmd => s
  | .status => s
  | .term => s.setTerm (v.setWidth 8)
  | .dlen => s.setDlen (v.setWidth 8)
  | .freq => s.setFreq v
  | .vco => s.setVco v
  | .target => s.setTarget v
  | .rdiv => s.setRdiv (v.setWidth 8)
  | .band => s
  | .outen => s
  | .ibuf i => s.setIbuf i (v.setWidth 8)
  | .obuf _ => s
  | .p1 _ => s
  | .p2 _ => s
  | .p3 _ => s
  | .prdiv _ => s

/-- The value MemRead(addr, 4) answers: 0 at CMD and at an unmapped address (43_control.md R153). -/
def peek (s : State) (a : Nat) : Word :=
  match regAt s.cfg a with
  | some r => readReg s r
  | none => 0

/-- What MemWrite(addr, 4, v) stores at an address other than CMD's: nothing at an unmapped address
(43_control.md R152). -/
def poke (s : State) (a : Nat) (v : Word) : State :=
  match regAt s.cfg a with
  | some r => writeReg s r v
  | none => s

end Sys2Proof.Machine
end

