-- ==== Sys2Proof/Machine/Access.lean ====
section
/-! DEFINITION. The host's access primitives and the reset event (20_memory.md R50; 43_control.md R152, R153;
70_reset_and_hazards.md R180). -/

namespace Sys2Proof.Machine

/-- A write of w to CMD executes the command w (10_state.md R22, 30_encoding.md R75). -/
def runCommand (w : Word) (s : State) : Host.Outcome State Fault Refusal := exec (decode s.cfg w) s

/-- MemRead(addr, 4) changes no state of the block (43_control.md R153); the value goes to the host. -/
def memRead (a : Nat) (s : State) : Host.Outcome State Fault Refusal := .next (s.setRdata (peek s a))

/-- MemWrite(addr, 4, v): a command at CMD's address, else a store (43_control.md R152). -/
def memWrite (a : Nat) (v : Word) (s : State) : Host.Outcome State Fault Refusal :=
  if a = addrOf .cmd then runCommand v s else .next (poke s a v)

/-- An access that is no host operation of this block is refused by name (20_memory.md R50; log 6). -/
def checked (a size : Nat) (k : Host.Outcome State Fault Refusal) :
    Host.Outcome State Fault Refusal :=
  if size ≠ 4 then .refused (.accessSize size)
  else if 256 ≤ a then .refused (.accessAddress a)
  else k

/-- One access or reset event, whole: accesses are atomic (20_memory.md R60). -/
def perform (x : HostAccess) (s : State) : Host.Outcome State Fault Refusal :=
  match x with
  | .read a size => checked a size (memRead a s)
  | .write a size v => checked a size (memWrite a v s)
  | .reset => .next s.resetRegisters

/-- The next access in the host's program order (20_memory.md R60). With none pending the block "holds its
registers until reset" (60_exceptions.md R175; log 4). -/
def serveNext (s : State) : Host.Outcome State Fault Refusal :=
  match s.pending with
  | [] => .next s
  | x :: xs => perform x { s with pending := xs }

/-- The host's write that issues a table row's bits as a command, made the next access (log 2). -/
def State.withCommand (s : State) (nbits w : Nat) : State :=
  { s with pending := .write (addrOf .cmd) 4 (BitVec.ofNat 32 (w % 2 ^ nbits)) :: s.pending }

end Sys2Proof.Machine
end

