-- ==== Sys2Proof/Machine/Step.lean ====
section
/-! DEFINITION. The step: one host access is one atomic step (20_memory.md R60; 70_reset_and_hazards.md R187).
The block fetches no instructions (10_state.md R40): a command is the value of one write to CMD, so "the next
instruction" is the word of the next pending write to CMD (log 2). -/

namespace Sys2Proof.Machine

/-- One step: the next pending access. -/
def step (s : State) : Host.Outcome State Fault Refusal := serveNext s

/-- s with the host about to write the command word w to CMD. -/
def State.withFetchWord (s : State) (nbits w : Nat) : State := s.withCommand nbits w

end Sys2Proof.Machine
end

