-- ==== Sys2Proof/Machine/Program.lean ====
section
/-! DEFINITION. Host programs (30_encoding.md R78): the accesses a statement stands for, and a program's
accesses in order, to be put in `State.pending`. -/

namespace Sys2Proof.Machine

/-- `MemWrite(0x00, 4, w)`: issue the command word w. -/
def issue (w : Word) : HostAccess := .write (addrOf .cmd) 4 w

/-- The address of a register given by name or by address (30_encoding.md R78). -/
def refAddr : RegRef → Nat
  | .name r => addrOf r
  | .addr a => a

/-- `WR reg, v`. -/
def writeTo (r : RegRef) (v : Word) : HostAccess := .write (refAddr r) 4 v

/-- `WR IBUF[i], b0`, `WR IBUF[i+1], b1`, … (the expansion of LDBUF, 30_encoding.md R78), each with any 32-bit
value (log 12). -/
def loadBuffer (i : Nat) : List Word → List HostAccess
  | [] => []
  | b :: bs => .write (0x10 + i) 4 b :: loadBuffer (i + 1) bs

/-- The accesses of one statement (30_encoding.md R78); `Stmt.wellFormed` says which statements the rule
admits. -/
def expand : Stmt → List HostAccess
  | .nop => [issue (encode .nop)]
  | .dec => [issue (encode .dec)]
  | .enc => [issue (encode .enc)]
  | .plan ch => [issue (encode (.plan ch))]
  | .band => [issue (encode .band)]
  | .cmd w => [issue w]
  | .wr r v => [writeTo r v]
  | .rd r => [.read (refAddr r) 4]
  | .ldbuf bs => loadBuffer 0 bs
  | .decode bs =>
    loadBuffer 0 bs ++ [writeTo (.name .dlen) (BitVec.ofNat 32 bs.length), issue (encode .dec)]
  | .planf ch vco target rdiv =>
    [writeTo (.name .vco) vco, writeTo (.name .target) target, writeTo (.name .rdiv) rdiv,
      issue (encode (.plan ch))]

/-- A host program's accesses in program order (20_memory.md R60). -/
def expandAll : List Stmt → List HostAccess
  | [] => []
  | p :: ps => expand p ++ expandAll ps

/-- s with a host program still to run. -/
def State.withProgram (s : State) (ps : List Stmt) : State := { s with pending := expandAll ps }

end Sys2Proof.Machine
end

