-- ==== Sys2Proof/WellFormed.lean ====
section
/-! DEFINITION. Which terms of the syntax stand for something on a block with N_OUT output channels:
commands (30_encoding.md R73, R75), register names (10_state.md R21), host accesses (20_memory.md R50)
and host statements (30_encoding.md R78). -/

namespace Sys2Proof

/-- PLAN names an existing channel, and only a word that is not legal is an illegal command. -/
def Instr.wellFormed (c : Config) : Instr → Bool
  | .nop => true
  | .dec => true
  | .enc => true
  | .plan ch => decide (ch.toNat < c.nOut)
  | .band => true
  | .illegal w => !legal c w

/-- The channel of a plan register exists, ch < N_OUT (10_state.md R21). -/
def Reg.present (c : Config) : Reg → Bool
  | .p1 ch => decide (ch.toNat < c.nOut)
  | .p2 ch => decide (ch.toNat < c.nOut)
  | .p3 ch => decide (ch.toNat < c.nOut)
  | .prdiv ch => decide (ch.toNat < c.nOut)
  | _ => true

/-- A host operation of this block: size 4 and an address in 0..255 (20_memory.md R50). -/
def HostAccess.wellFormed : HostAccess → Bool
  | .read a n => decide (n = 4 ∧ a < 256)
  | .write a n _ => decide (n = 4 ∧ a < 256)
  | .reset => true

/-- A named register exists, or the address is one of the 256 (30_encoding.md R78). -/
def RegRef.wellFormed (c : Config) : RegRef → Bool
  | .name r => r.present c
  | .addr a => decide (a < 256)

/-- A statement of 30_encoding.md R78: existing channels and registers, and 1 to 16 values
for the buffer (log 12). -/
def Stmt.wellFormed (c : Config) : Stmt → Bool
  | .plan ch => decide (ch.toNat < c.nOut)
  | .planf ch _ _ _ => decide (ch.toNat < c.nOut)
  | .wr r _ => r.wellFormed c
  | .rd r => r.wellFormed c
  | .ldbuf bs => decide (1 ≤ bs.length ∧ bs.length ≤ 16)
  | .decode bs => decide (1 ≤ bs.length ∧ bs.length ≤ 16)
  | _ => true

end Sys2Proof
end

