-- ==== Sys2Proof/Safety.lean ====
section
/-! DEFINITION. What counts as a good state and a good run, in the terms the statements use. -/

namespace Sys2Proof.Machine

/-- STATUS as commands leave it: CODE is 0 to 3 (10_state.md R24: codes 4 to 15 are "never produced"), and
OVF and NDIG appear only with CODE = OK (60_exceptions.md R165). -/
abbrev StatusGood (st : BitVec 6) : Prop :=
  (statusCode st).toNat ≤ 3 ∧
    (statusCode st ≠ 0 → statusOvf st = false ∧ statusNdig st = false)

/-- BAND holds 1, 2, 3 or 4; "values 0, 5, 6 and 7 never occur" (10_state.md R31). -/
abbrev BandGood (b : BitVec 3) : Prop := 1 ≤ b.toNat ∧ b.toNat ≤ 4

/-- Every nibble of OBUF is a decimal digit, and the top one is at most 4 (40_codec.md R104). -/
abbrev ObufGood (o : Vector Byte 5) : Prop :=
  (∀ i : Fin 5, lo4 (o[i.val]'i.isLt) ≤ 9 ∧ hi4 (o[i.val]'i.isLt) ≤ 9) ∧ hi4 o[4] ≤ 4

/-- A channel's plan as a successful PLAN leaves it: P3 in [F_MIN, 2^20), which holds the two ranges of
10_state.md R37, P2 below P3 (41_planner.md R122), and the right divider's bits set in P1 (R125). -/
abbrev PlanGood (p : PlanRegs) : Prop :=
  fMin ≤ p.p3.toNat ∧ p.p3.toNat < cLimit ∧ p.p2.toNat < p.p3.toNat ∧
    p.p1 &&& (p.prdiv.setWidth 32 <<< rdivShift) = p.prdiv.setWidth 32 <<< rdivShift

/-- Channel ch: its plan registers hold reset's zeros or a plan; where the channel does not exist (log 9) they
hold the zeros and its OUTEN bit is 0; where it is enabled they hold a plan (70_reset_and_hazards.md R182: "no
output is enabled before a successful PLAN"). -/
abbrev ChannelGood (s : State) (ch : Fin 16) : Prop :=
  (s.plans[ch.val] = PlanRegs.zero ∨ PlanGood s.plans[ch.val]) ∧
    (s.cfg.nOut ≤ ch.val → s.plans[ch.val] = PlanRegs.zero ∧ s.outen.getLsbD ch.val = false) ∧
    (s.outen.getLsbD ch.val = true → PlanGood s.plans[ch.val])

/-- The invariant of every run: N_OUT is in its range and the registers that only commands write hold what
commands write. -/
abbrev Inv (s : State) : Prop :=
  s.cfg.Valid ∧ StatusGood s.status ∧ BandGood s.band ∧ ObufGood s.obuf ∧
    ∀ ch : Fin 16, ChannelGood s ch

/-- Every access the host will make is a host operation of this block (20_memory.md R50). -/
abbrev PendingGood (s : State) : Prop := s.pending.all HostAccess.wellFormed = true

/-- Equal in every register that some command reads and in N_OUT (30_encoding.md R72, the column "Reads", all
rows together). -/
abbrev SameOperands (s t : State) : Prop :=
  s.cfg = t.cfg ∧ s.term = t.term ∧ s.dlen = t.dlen ∧ s.ibuf = t.ibuf ∧ s.freq = t.freq ∧
    s.vco = t.vco ∧ s.target = t.target ∧ s.rdiv = t.rdiv

/-- Equal in the registers that the command i reads, row by row of 30_encoding.md R72: none for NOP and an illegal
word. PLAN has N_OUT besides, which says whether its channel exists (R73). -/
abbrev SameReads (i : Instr) (s t : State) : Prop :=
  match i with
  | .nop => True
  | .dec => s.term = t.term ∧ s.dlen = t.dlen ∧ s.ibuf = t.ibuf
  | .enc => s.freq = t.freq
  | .plan _ => s.cfg = t.cfg ∧ s.target = t.target ∧ s.vco = t.vco ∧ s.rdiv = t.rdiv
  | .band => s.freq = t.freq
  | .illegal _ => True

/-- The host's writes of 40_codec.md R103: IBUF[i] <- OBUF[i] for i = 0..4 and IBUF[5] <- TERM, each value as
the host reads it. -/
def copyEncoded (s : State) : State :=
  poke (poke (poke (poke (poke (poke s
    0x10 (peek s 0x20)) 0x11 (peek s 0x21)) 0x12 (peek s 0x22)) 0x13 (peek s 0x23)) 0x14 (peek s 0x24))
    0x15 (peek s 0x02)

/-- How often the loop of 41_planner.md R121 shifts, by the closed form of R122: 0 below 2^20, else
floor(log2 t) − 19. -/
def shiftCount (t : Nat) : Nat := if t < 2 ^ 20 then 0 else Nat.log2 t - 19

end Sys2Proof.Machine
end

