-- ==== Sys2Proof/Certificates/Slice0/Obligations.lean ====
section
/-! DEFINITION. The statements for the provers. Each docstring names the rule of spec/ it formalises; one that
rests on a law the spec itself derives, or on a choice of the model, says so. -/

open Sys2Proof Sys2Proof.Machine

/-! ### Encoding -/

/-- Every well-formed command, every channel and every illegal word included, is read back from its own word
(the encoding of 30_encoding.md sections 1 to 3). -/
def Obligations.DecodeOfEncodeIsTheCommand : Prop :=
  ∀ (c : Config) (i : Instr), i.wellFormed c = true → decode c (encode i) = i

/-- No bit of a command word is dropped: the word of what a word decodes to is that word. -/
def Obligations.EncodeOfDecodeIsTheWord : Prop :=
  ∀ (c : Config) (w : Word), encode (decode c w) = w

/-- The decoder answers only commands of this block: an existing channel, or a word that is not legal. -/
def Obligations.DecodeAnswersWellFormed : Prop :=
  ∀ (c : Config) (w : Word), (decode c w).wellFormed c = true

/-- 30_encoding.md R75, whole: legal(w) by the bits of w; a legal word executes its command (R71) and an
illegal one executes nothing and finishes with ILLEGAL_COMMAND; the 4 + N_OUT legal words. -/
def Obligations.LegalWordsExactly : Prop :=
  ∀ s : State, s.cfg.Valid →
    (∀ w : Word, legal s.cfg w = true ↔
      w.toNat / 256 = 0 ∧
        ((w.toNat % 16 ∈ [0, 1, 2, 4] ∧ w.toNat / 16 % 16 = 0) ∨
          (w.toNat % 16 = 3 ∧ w.toNat / 16 % 16 < s.cfg.nOut))) ∧
    runCommand 0 s = exec .nop s ∧ runCommand 1 s = exec .dec s ∧ runCommand 2 s = exec .enc s ∧
    (∀ ch : Channel, ch.toNat < s.cfg.nOut →
      runCommand (3#32 ||| ch.setWidth 32 <<< 4) s = exec (.plan ch) s) ∧
    runCommand 4 s = exec .band s ∧
    (∀ w : Word, legal s.cfg w = false → runCommand w s = .next { s with status := 3 }) ∧
    ∃ ws : List Word, ws.Nodup ∧ ws.length = 4 + s.cfg.nOut ∧
      ∀ w, w ∈ ws ↔ legal s.cfg w = true ∧
        (w = 0 ∨ w = 1 ∨ w = 2 ∨ w = 4 ∨
          ∃ ch : Channel, ch.toNat < s.cfg.nOut ∧ w = 3#32 ||| ch.setWidth 32 <<< 4)

/-- The example words of 30_encoding.md R79 (which the spec derives from R70 and R71), with N_OUT = 3. -/
def Obligations.ExampleWordsDecode : Prop :=
  [(0x00000000, Instr.nop), (0x00000001, .dec), (0x00000002, .enc), (0x00000003, .plan 0),
    (0x00000013, .plan 1), (0x00000023, .plan 2), (0x00000004, .band), (0x00000033, .illegal 0x33),
    (0x00000011, .illegal 0x11), (0x00000105, .illegal 0x105), (0x0000000F, .illegal 0xF)].all
    (fun p => decode { nOut := 3 } p.1 == p.2) = true

/-! ### The step -/

/-- A write of w to CMD, pending as the host's next access, runs the command that w encodes in one step, on every
word (10_state.md section 2; that accesses stand in a queue that the step moves on is the model's choice, log 2). -/
def Obligations.StepRunsTheCommandWritten : Prop :=
  ∀ (s : State) (w : Word) (xs : List HostAccess), s.pending = .write 0x00 4 w :: xs →
    step s = exec (decode s.cfg w) { s with pending := xs }

/-- The step carries out the next pending access: a read gives its value to the host, a write is MemWrite, a reset
event resets the registers (the model's interface, logs 2, 3 and 5). -/
def Obligations.StepServesTheNextAccess : Prop :=
  ∀ (s : State) (xs : List HostAccess),
    (∀ a : Nat, a < 256 → s.pending = .read a 4 :: xs →
      step s = .next { s with pending := xs, rdata := some (peek s a) }) ∧
    (∀ (a : Nat) (v : Word), a < 256 → s.pending = .write a 4 v :: xs →
      step s = memWrite a v { s with pending := xs }) ∧
    (s.pending = .reset :: xs → step s = .next { s.resetRegisters with pending := xs })

/-- The word that `withFetchWord` places is run by the very next step, in the state it was placed in (the
model's own interface, log 2). -/
def Obligations.StepRunsThePlacedWord : Prop :=
  ∀ (s : State) (w : Nat), w < 2 ^ 32 →
    step (s.withFetchWord 32 w) = exec (decode s.cfg (BitVec.ofNat 32 w)) s

/-! ### NOP and illegal words -/

/-- 43_control.md R150: NOP writes 0 to STATUS and changes no other register. -/
def Obligations.NopClearsStatusOnly : Prop :=
  ∀ s : State, exec .nop s = .next { s with status := 0 }

/-- 43_control.md R151: every word with OP in 0x5 to 0xF, or RSV not 0, or CH not 0 outside PLAN, or PLAN of a
channel at N_OUT or above, decodes to the illegal command, which writes 3 to STATUS and changes nothing
else. -/
def Obligations.IllegalWordsRaiseOnly : Prop :=
  ∀ (s : State) (w : Word),
    (5 ≤ w.toNat % 16 ∨ w.toNat / 256 ≠ 0 ∨ (w.toNat / 16 % 16 ≠ 0 ∧ w.toNat % 16 ≠ 3) ∨
      (w.toNat % 16 = 3 ∧ s.cfg.nOut ≤ w.toNat / 16 % 16)) →
    decode s.cfg w = .illegal w ∧ exec (.illegal w) s = .next { s with status := 3 } ∧
      runCommand w s = .next { s with status := 3 }

/-- 60_exceptions.md R165: legality first, then DEC reports OK or MalformedFrame, PLAN OK or
FrequencyOutOfRange, NOP, ENC and BAND OK; OVF and NDIG appear only with CODE = OK after DEC. -/
def Obligations.OneCodePerCommand : Prop :=
  ∀ (s : State) (w : Word), ∃ t : State, runCommand w s = .next t ∧
    (legal s.cfg w = false → t = { s with status := 3 }) ∧
    (decode s.cfg w = .dec → statusCode t.status = 0 ∨ t.status = 1) ∧
    (∀ ch, decode s.cfg w = .plan ch → t.status = 0 ∨ t.status = 2) ∧
    (decode s.cfg w = .nop ∨ decode s.cfg w = .enc ∨ decode s.cfg w = .band → t.status = 0) ∧
    (statusOvf t.status = true ∨ statusNdig t.status = true →
      decode s.cfg w = .dec ∧ statusCode t.status = 0)

/-! ### DEC -/

/-- 60_exceptions.md R162: DEC reports MalformedFrame exactly when it finds no terminator within the buffer bound,
and then FREQ, like everything else but STATUS, is unchanged. -/
def Obligations.DecMalformedExactlyWithoutTerminator : Prop :=
  ∀ s : State, ∃ t : State, exec .dec s = .next t ∧
    (statusCode t.status = 1 ↔ ∀ i : Fin 16, i.val < min s.dlen.toNat 16 → s.ibuf[i] ≠ s.term) ∧
    (statusCode t.status = 1 → t = { s with status := 1 })

/-- 40_codec.md R101: with no terminator MalformedFrame; else, t the index of the first one, FREQ <- the
digits before it summed by weight, mod 2^32, OVF when that sum is at least 2^32, NDIG when a nibble before it
is above 9, CODE = OK, and nothing else changes. -/
def Obligations.DecSumsDigitsBeforeTerminator : Prop :=
  ∀ s : State,
    ((∀ i : Fin 16, i.val < min s.dlen.toNat 16 → s.ibuf[i] ≠ s.term) →
      exec .dec s = .next { s with status := 1 }) ∧
    ∀ t : Fin 16, t.val < min s.dlen.toNat 16 → s.ibuf[t] = s.term →
      (∀ i : Fin 16, i < t → s.ibuf[i] ≠ s.term) →
      ∀ sum : Nat,
        sum = ∑ i : Fin 16, (if i < t then
          (s.ibuf[i].toNat % 16) * 10 ^ (2 * i.val) + (s.ibuf[i].toNat / 16) * 10 ^ (2 * i.val + 1)
          else 0) →
        exec .dec s = .next
          { s with
            freq := BitVec.ofNat 32 (sum % 2 ^ 32)
            status := (if 2 ^ 32 ≤ sum then 0x10#6 else 0#6) |||
              (if ∃ i : Fin 16, i < t ∧ (9 < s.ibuf[i].toNat % 16 ∨ 9 < s.ibuf[i].toNat / 16)
                then 0x20#6 else 0#6) }

/-- A second DEC gives the same result (a corner case of 40_codec.md R101). -/
def Obligations.DecTwiceIsDecOnce : Prop :=
  ∀ s : State, ∃ t : State, exec .dec s = .next t ∧ exec .dec t = .next t

/-! ### ENC -/

/-- 40_codec.md R102: byte i of OBUF is the digits of FREQ of weight 10^(2i), in its low nibble, and
10^(2i+1), in its high nibble; STATUS <- 0; nothing else changes. -/
def Obligations.EncWritesDecimalDigits : Prop :=
  ∀ s : State, ∃ o : Vector Byte 5,
    exec .enc s = .next { s with obuf := o, status := 0 } ∧
      ∀ i : Fin 5, o[i].toNat =
        16 * (s.freq.toNat / 10 ^ (2 * i.val + 1) % 10) + s.freq.toNat / 10 ^ (2 * i.val) % 10

/-- 40_codec.md R104 (a law the spec derives from R102): after ENC every nibble of OBUF is a decimal digit and
the top one is at most 4. -/
def Obligations.EncNibblesAreDecimal : Prop :=
  ∀ s : State, ∃ t : State, exec .enc s = .next t ∧ ObufGood t.obuf

/-- 40_codec.md R104, the converse (derived there): a five-byte string of decimal nibbles whose value is FREQ
is exactly what ENC writes. -/
def Obligations.EncImageIsUnique : Prop :=
  ∀ (s : State) (o : Vector Byte 5),
    (∀ i : Fin 5, lo4 o[i] ≤ 9 ∧ hi4 o[i] ≤ 9) →
    s.freq.toNat = ∑ i : Fin 5, (lo4 o[i] * 10 ^ (2 * i.val) + hi4 o[i] * 10 ^ (2 * i.val + 1)) →
    exec .enc s = .next { s with obuf := o, status := 0 }

/-- 40_codec.md R103 (a law the spec derives from R101 and R102): encode FREQ, copy OBUF and TERM into IBUF by
host accesses, put any value into FREQ, and DEC gives the encoded frequency back with STATUS = 0, when DLEN is
at least 6 and TERM is no digit pair or no encoded byte. -/
def Obligations.DecodeOfEncodedFrequency : Prop :=
  ∀ s : State, 6 ≤ s.dlen.toNat →
    ∃ e : State, exec .enc s = .next e ∧
      ((9 < lo4 s.term ∨ 9 < hi4 s.term ∨ ∀ i : Fin 5, e.obuf[i] ≠ s.term) →
        ∀ x : Word, exec .dec (poke (copyEncoded e) 0x04 x) =
          .next { copyEncoded e with freq := s.freq, status := 0 })

/-! ### PLAN -/

/-- 60_exceptions.md R163: PLAN reports FrequencyOutOfRange exactly when TARGET is outside
[500 000, 109 000 000]; then OUTEN[ch] is cleared, and nothing but OUTEN and STATUS, and no other channel's
enable, changes. -/
def Obligations.PlanRefusesExactlyOutOfRange : Prop :=
  ∀ (s : State) (ch : Channel), ch.toNat < s.cfg.nOut → ∃ t : State, exec (.plan ch) s = .next t ∧
    (t.status = 2 ↔ s.target.toNat < 500000 ∨ 109000000 < s.target.toNat) ∧
    (t.status = 2 → t = { s with outen := t.outen, status := 2 } ∧
      ∀ j : Nat, t.outen.getLsbD j = if j = ch.toNat then false else s.outen.getLsbD j)

/-- 41_planner.md R121: out of range, OUTEN[ch] is cleared and STATUS is 2; in range, with a = v div t,
b = v mod t, k the number of turns of the loop (the first k that brings t div 2^k below 2^20), the channel's
four registers and OUTEN[ch] are written as the rule computes them and STATUS is 0. Nothing else changes. -/
def Obligations.PlanComputesDividers : Prop :=
  ∀ (s : State) (ch : Channel), ch.toNat < s.cfg.nOut →
    ((s.target.toNat < 500000 ∨ 109000000 < s.target.toNat) →
      exec (.plan ch) s = .next
        { s with outen := s.outen &&& ~~~ (1#16 <<< ch.toNat), status := 2 }) ∧
    (500000 ≤ s.target.toNat → s.target.toNat ≤ 109000000 →
      ∀ a b c k fp : Nat,
        a = s.vco.toNat / s.target.toNat →
        s.target.toNat / 2 ^ k < 2 ^ 20 → (∀ j < k, 2 ^ 20 ≤ s.target.toNat / 2 ^ j) →
        b = s.vco.toNat % s.target.toNat / 2 ^ k → c = s.target.toNat / 2 ^ k →
        fp = 128 * b / c →
        exec (.plan ch) s = .next
          { s with
            plans := s.plans.set ch.toNat
              { p1 := BitVec.ofInt 32 (128 * (a : Int) + fp - 512) ||| s.rdiv.setWidth 32 <<< 20
                p2 := BitVec.ofNat 32 (128 * b - fp * c)
                p3 := BitVec.ofNat 32 c
                prdiv := s.rdiv } ch.isLt
            outen := s.outen ||| 1#16 <<< ch.toNat
            status := 0 })

/-- A PLAN of a channel that does not exist is the illegal command (STATUS 3, nothing else), also where `exec`
is handed such a term, which the decoder never answers (the model's choice, log 7). -/
def Obligations.PlanOfAbsentChannelRaises : Prop :=
  ∀ (s : State) (ch : Channel), s.cfg.nOut ≤ ch.toNat →
    exec (.plan ch) s = .next { s with status := 3 }

/-- 41_planner.md R122 (a law the spec derives from R120 and R121): the loop runs s ≤ 7 times, s by the closed
form; the ranges of c, b and fp; P2 is a remainder below P3. -/
def Obligations.ReductionLoopBounds : Prop :=
  ∀ v t a b c fp : Nat, 500000 ≤ t → t ≤ 109000000 → a = v / t →
    (b, c) = reducedRatio v t → fp = fracPart b c →
    shiftCount t ≤ 7 ∧ c = t / 2 ^ shiftCount t ∧ b = v % t / 2 ^ shiftCount t ∧
      (shiftCount t = 0 → 500000 ≤ c ∧ c < 2 ^ 20) ∧
      (1 ≤ shiftCount t → 2 ^ 19 ≤ c ∧ c < 2 ^ 20) ∧
      b ≤ c ∧ fp ≤ 128 ∧ (fp = 128 ↔ b = c) ∧
      128 * b - fp * c = 128 * b % c ∧ fp * c ≤ 128 * b ∧ 128 * b % c < c

/-- 41_planner.md R123 (derived there from R121 and R122): for an in-range target and a 32-bit VCO no
intermediate leaves 32 bits but the subtraction of 512, and P2 and P3 fit in 20 bits. -/
def Obligations.PlannerIntermediatesFit : Prop :=
  ∀ (v : Word) (t a b c fp : Nat), 500000 ≤ t → t ≤ 109000000 → a = v.toNat / t →
    (b, c) = reducedRatio v.toNat t → fp = fracPart b c →
    a ≤ 8589 ∧ 128 * a + fp ≤ 1099520 ∧ 128 * b ≤ 2 ^ 27 ∧ 128 * b - fp * c < 2 ^ 20 ∧ c < 2 ^ 20

/-- 41_planner.md R124 (derived there from R121 and R122): the plan that PLAN leaves in P1, P2 and P3 gives
a + b/c back exactly, and t·(a + b/c) differs from VCO by less than 2^s Hz, by nothing when s = 0, and by less
than 2^-20 of VCO when a ≥ 2; with RDIV = 0 and 0 ≤ I < 2^20, P1 is I and gives a back. Fractions are cleared
by multiplying with 128·P3 and with c. -/
def Obligations.PlanReconstructsVco : Prop :=
  ∀ (s : State) (ch : Channel), ch.toNat < s.cfg.nOut →
    500000 ≤ s.target.toNat → s.target.toNat ≤ 109000000 →
    ∃ t : State, exec (.plan ch) s = .next t ∧
      ∀ (a b c fp sh : Nat) (I err : Int),
        a = s.vco.toNat / s.target.toNat → (b, c) = reducedRatio s.vco.toNat s.target.toNat →
        fp = fracPart b c → I = 128 * (a : Int) + fp - 512 → sh = shiftCount s.target.toNat →
        err = (s.target.toNat : Int) * (a * c + b) - s.vco.toNat * c →
        (t.plan ch).p3.toNat = c ∧
        (I + 512) * (t.plan ch).p3.toNat + (t.plan ch).p2.toNat = 128 * ((a : Int) * c + b) ∧
        |err| < 2 ^ sh * c ∧ (2 : Int) ^ sh ≤ 128 ∧ (sh = 0 → err = 0) ∧
        (2 ≤ a → |err| * 2 ^ 20 < s.vco.toNat * c) ∧
        (s.rdiv = 0 → 0 ≤ I → I < 2 ^ 20 →
          ((t.plan ch).p1.toNat : Int) = I ∧ a = ((t.plan ch).p1.toNat + 512 - fp) / 128 ∧
          (fp < 128 → a = ((t.plan ch).p1.toNat + 512) / 128))

/-- 41_planner.md R125 (derived there from R121): RDIV stands in P1 bits 27:20 apart from the integer field
when 4 ≤ a ≤ 8194, or a = 8195 and fp < 128; where I is negative P1 is I mod 2^32 and RDIV has no effect. -/
def Obligations.RightDividerIsSeparable : Prop :=
  ∀ (s : State) (ch : Channel), ch.toNat < s.cfg.nOut →
    500000 ≤ s.target.toNat → s.target.toNat ≤ 109000000 →
    ∃ t : State, exec (.plan ch) s = .next t ∧
      ∀ (a fp : Nat) (I : Int), a = s.vco.toNat / s.target.toNat →
        fp = fracPart (reducedRatio s.vco.toNat s.target.toNat).1
          (reducedRatio s.vco.toNat s.target.toNat).2 →
        I = 128 * (a : Int) + fp - 512 →
        (((4 ≤ a ∧ a ≤ 8194) ∨ (a = 8195 ∧ fp < 128) ∨ (4 ≤ a ∧ s.vco.toNat < 4097500000)) →
          ((t.plan ch).p1.toNat % 2 ^ 20 : Nat) = I ∧
            (t.plan ch).p1.toNat / 2 ^ 20 = s.rdiv.toNat) ∧
        (I < 0 → a ≤ 3 ∧ (t.plan ch).p1 = BitVec.ofInt 32 I ∧ 0xFFFFFE00 ≤ (t.plan ch).p1.toNat)

/-- PLAN of one channel leaves every address but STATUS, OUTEN and the channel's four as it read, and every
other channel's enable ("Other channels are unaffected", 60_exceptions.md R163). -/
def Obligations.PlanLeavesOtherChannels : Prop :=
  ∀ (s : State) (ch : Channel), ∃ t : State, exec (.plan ch) s = .next t ∧
    (∀ a : Nat, a ≠ 0x01 → a ≠ 0x09 → (a < 0x40 + 4 * ch.toNat ∨ 0x40 + 4 * ch.toNat + 4 ≤ a) →
      peek t a = peek s a) ∧
    ∀ j : Nat, j ≠ ch.toNat → (peek t 0x09).getLsbD j = (peek s 0x09).getLsbD j

/-! ### BAND -/

/-- 42_band.md R140 and R141: BAND <- the band of FREQ by the thresholds in their order, for every FREQ;
STATUS <- 0; nothing else changes; the four bands are the table's intervals. -/
def Obligations.BandFollowsThresholds : Prop :=
  ∀ s : State, ∃ b : BitVec 3,
    exec .band s = .next { s with band := b, status := 0 } ∧
    b = (if s.freq.toNat > 21000000 then 1 else if s.freq.toNat ≥ 14000000 then 2
      else if s.freq.toNat > 7000000 then 3 else 4) ∧
    (b = 1 ↔ 21000001 ≤ s.freq.toNat ∧ s.freq.toNat ≤ 4294967295) ∧
    (b = 2 ↔ 14000000 ≤ s.freq.toNat ∧ s.freq.toNat ≤ 21000000) ∧
    (b = 3 ↔ 7000001 ≤ s.freq.toNat ∧ s.freq.toNat ≤ 13999999) ∧
    (b = 4 ↔ s.freq.toNat ≤ 7000000)

/-! ### Host access -/

/-- 20_memory.md R52: which register each of the addresses names. -/
def Obligations.AddressMapAsTabled : Prop :=
  ∀ c : Config, c.Valid →
    [0, 1, 2, 3, 4, 5, 6, 7, 8, 9].map (regAt c) =
      [some .cmd, some .status, some .term, some .dlen, some .freq, some .vco, some .target,
        some .rdiv, some .band, some .outen] ∧
    (∀ i : Fin 16, regAt c (0x10 + i.val) = some (.ibuf i)) ∧
    (∀ i : Fin 5, regAt c (0x20 + i.val) = some (.obuf i)) ∧
    (∀ ch : Channel, ch.toNat < c.nOut →
      regAt c (0x40 + 4 * ch.toNat) = some (.p1 ch) ∧
      regAt c (0x40 + 4 * ch.toNat + 1) = some (.p2 ch) ∧
      regAt c (0x40 + 4 * ch.toNat + 2) = some (.p3 ch) ∧
      regAt c (0x40 + 4 * ch.toNat + 3) = some (.prdiv ch)) ∧
    ∀ a : Nat, (0x0A ≤ a ∧ a ≤ 0x0F) ∨ (0x25 ≤ a ∧ a ≤ 0x3F) ∨ 0x40 + 4 * c.nOut ≤ a →
      regAt c a = none

/-- 43_control.md R153: a read answers the named register's value, zero-extended, and 0 for CMD and for an
unmapped address; it changes no register and takes nothing from the host's list. -/
def Obligations.ReadAnswersTheRegister : Prop :=
  ∀ (s : State) (a : Nat), s.cfg.Valid →
    (∃ t : State, memRead a s = .next t ∧ t = { s with rdata := t.rdata }) ∧
    (a = 0x00 → peek s a = 0) ∧ (a = 0x01 → (peek s a).toNat = s.status.toNat) ∧
    (a = 0x02 → (peek s a).toNat = s.term.toNat) ∧ (a = 0x03 → (peek s a).toNat = s.dlen.toNat) ∧
    (a = 0x04 → peek s a = s.freq) ∧ (a = 0x05 → peek s a = s.vco) ∧
    (a = 0x06 → peek s a = s.target) ∧ (a = 0x07 → (peek s a).toNat = s.rdiv.toNat) ∧
    (a = 0x08 → (peek s a).toNat = s.band.toNat) ∧
    (a = 0x09 → (peek s a).toNat = s.outen.toNat % 2 ^ s.cfg.nOut) ∧
    (∀ i : Fin 16, a = 0x10 + i.val → (peek s a).toNat = s.ibuf[i].toNat) ∧
    (∀ i : Fin 5, a = 0x20 + i.val → (peek s a).toNat = s.obuf[i].toNat) ∧
    (∀ ch : Fin 16, ch.val < s.cfg.nOut →
      (a = 0x40 + 4 * ch.val → peek s a = s.plans[ch].p1) ∧
      (a = 0x40 + 4 * ch.val + 1 → peek s a = s.plans[ch].p2) ∧
      (a = 0x40 + 4 * ch.val + 2 → peek s a = s.plans[ch].p3) ∧
      (a = 0x40 + 4 * ch.val + 3 → (peek s a).toNat = s.plans[ch].prdiv.toNat)) ∧
    ((0x0A ≤ a ∧ a ≤ 0x0F) ∨ (0x25 ≤ a ∧ a ≤ 0x3F) ∨ 0x40 + 4 * s.cfg.nOut ≤ a → peek s a = 0)

/-- 43_control.md R152: a write to CMD executes its command; a write to a read-write register stores its low
bits; every other write has no effect. -/
def Obligations.WriteStoresLowBits : Prop :=
  ∀ (s : State) (a : Nat) (v : Word),
    (a = 0x00 → memWrite a v s = exec (decode s.cfg v) s) ∧
    (a = 0x02 → memWrite a v s = .next { s with term := v.extractLsb' 0 8 }) ∧
    (a = 0x03 → memWrite a v s = .next { s with dlen := v.extractLsb' 0 8 }) ∧
    (a = 0x04 → memWrite a v s = .next { s with freq := v }) ∧
    (a = 0x05 → memWrite a v s = .next { s with vco := v }) ∧
    (a = 0x06 → memWrite a v s = .next { s with target := v }) ∧
    (a = 0x07 → memWrite a v s = .next { s with rdiv := v.extractLsb' 0 8 }) ∧
    (∀ i : Fin 16, a = 0x10 + i.val →
      memWrite a v s = .next { s with ibuf := s.ibuf.set i.val (v.extractLsb' 0 8) i.isLt }) ∧
    (a = 0x01 ∨ (0x08 ≤ a ∧ a ≤ 0x0F) ∨ 0x20 ≤ a → memWrite a v s = .next s)

/-- The law of 20_memory.md section 1 on read-write registers: a write to one of width w reads back as its low w bits, and every other
address reads as before. -/
def Obligations.ReadAfterWrite : Prop :=
  ∀ (s : State) (a : Nat) (v : Word) (w : Nat),
    ((a = 0x02 ∧ w = 8) ∨ (a = 0x03 ∧ w = 8) ∨ (a = 0x04 ∧ w = 32) ∨ (a = 0x05 ∧ w = 32) ∨
      (a = 0x06 ∧ w = 32) ∨ (a = 0x07 ∧ w = 8) ∨ (0x10 ≤ a ∧ a ≤ 0x1F ∧ w = 8)) →
    (peek (poke s a v) a).toNat = v.toNat % 2 ^ w ∧ ∀ a', a' ≠ a → peek (poke s a v) a' = peek s a'

/-- 20_memory.md R55: writes to read-only registers change no state, STATUS included; CMD reads 0 and a read
of it changes no register. -/
def Obligations.ReadOnlyRegistersIgnoreWrites : Prop :=
  ∀ (s : State) (a : Nat) (v : Word), s.cfg.Valid →
    ((a = 0x01 ∨ a = 0x08 ∨ a = 0x09 ∨ (0x20 ≤ a ∧ a ≤ 0x24) ∨
      (0x40 ≤ a ∧ a < 0x40 + 4 * s.cfg.nOut)) → memWrite a v s = .next s) ∧
    peek s 0x00 = 0 ∧ ∃ t : State, memRead 0x00 s = .next t ∧ t = { s with rdata := t.rdata }

/-- 20_memory.md R53: an unmapped address reads 0 and ignores writes, and neither access changes STATUS or any
other register. -/
def Obligations.UnmappedAddressesAreInert : Prop :=
  ∀ (s : State) (a : Nat) (v : Word), s.cfg.Valid →
    ((0x0A ≤ a ∧ a ≤ 0x0F) ∨ (0x25 ≤ a ∧ a ≤ 0x3F) ∨ 0x40 + 4 * s.cfg.nOut ≤ a) →
    peek s a = 0 ∧ memWrite a v s = .next s ∧
      ∃ t : State, memRead a s = .next t ∧ t = { s with rdata := t.rdata }

/-- Two reads of one address with nothing between them answer the same value (20_memory.md section 1, a law the
spec derives; the queue and `rdata` are the model's, logs 2 and 3). -/
def Obligations.ReadsRepeat : Prop :=
  ∀ (s : State) (a : Nat) (xs : List HostAccess), a < 256 →
    s.pending = .read a 4 :: .read a 4 :: xs →
    ∃ t : State, step s = .next t ∧ step t = .next { t with pending := xs }

/-- An access of size 4 at an address in 0..255 is carried out, any other is refused (20_memory.md R50). That the
refusal has a name of its own, and that it names the size where size and address are both wrong, is the model's
choice (log 6). -/
def Obligations.AccessRunsOrIsRefused : Prop :=
  ∀ (s : State) (a n : Nat) (v : Word),
    (n = 4 → a < 256 → (∃ t, perform (.read a n) s = .next t) ∧ ∃ t, perform (.write a n v) s = .next t) ∧
    (n ≠ 4 → perform (.read a n) s = .refused (.accessSize n) ∧
      perform (.write a n v) s = .refused (.accessSize n)) ∧
    (n = 4 → 256 ≤ a → perform (.read a n) s = .refused (.accessAddress a) ∧
      perform (.write a n v) s = .refused (.accessAddress a))

/-- With no access pending the block holds every register (60_exceptions.md R175; the model's choice of a step
for that, log 4). -/
def Obligations.IdleBlockHoldsItsState : Prop :=
  ∀ s : State, s.pending = [] → step s = .next s

/-- Nothing is fatal (60_exceptions.md R160): whatever its commands report, a host program of well-formed
accesses runs to its end, one step an access. -/
def Obligations.ProgramsRunToTheirEnd : Prop :=
  ∀ s : State, PendingGood s →
    ∃ t : State, Sys2Proof.core.run s.pending.length s = .next t ∧ t.pending = [] ∧ t.cfg = s.cfg

/-! ### Reset -/

/-- Reset sets every register to its reset value, from any state, and the reset state holds those values
(70_reset_and_hazards.md R180). The model's choices are that reset leaves N_OUT, the pending accesses and the
value last read (log 5), that it zeroes the slots of absent channels (log 9), and that State.reset has N_OUT = 3
(log 1). -/
def Obligations.ResetSetsEveryRegister : Prop :=
  (∀ s : State, s.resetRegisters =
    { s with
      status := 0, term := 0xFD, dlen := 6, freq := 0, vco := 0, target := 0, rdiv := 0, band := 4,
      outen := 0, ibuf := Vector.replicate 16 0, obuf := Vector.replicate 5 0,
      plans := Vector.replicate 16 { p1 := 0, p2 := 0, p3 := 0, prdiv := 0 } }) ∧
  ∀ c : Config, State.resetFor c =
    { State.resetFor c with
      status := 0, term := 0xFD, dlen := 6, freq := 0, vco := 0, target := 0, rdiv := 0, band := 4,
      outen := 0, ibuf := Vector.replicate 16 0, obuf := Vector.replicate 5 0,
      plans := Vector.replicate 16 { p1 := 0, p2 := 0, p3 := 0, prdiv := 0 } } ∧
    State.reset = State.resetFor { nOut := 3 }

/-- 70_reset_and_hazards.md R182 (derived there from R180 and R140): at reset BAND and OBUF are what BAND and
ENC give for FREQ = 0, no output is enabled, and a DEC reports MalformedFrame. -/
def Obligations.ResetIsConsistent : Prop :=
  ∀ c : Config,
    exec .band (State.resetFor c) = .next (State.resetFor c) ∧
    exec .enc (State.resetFor c) = .next (State.resetFor c) ∧
    (State.resetFor c).outen = 0 ∧
    exec .dec (State.resetFor c) = .next { State.resetFor c with status := 1 }

/-- The invariant holds after reset, for every N_OUT of its range. -/
def Obligations.ResetHasTheInvariant : Prop :=
  Inv State.reset ∧ ∀ c : Config, c.Valid → Inv (State.resetFor c)

/-! ### Rules of the whole machine -/

/-- Every step keeps the invariant: STATUS holds a code that is produced (10_state.md R24), BAND one of 1 to 4
(R31), OBUF decimal digits (40_codec.md R104), each channel reset's zeros or a plan (10_state.md R37,
41_planner.md R122), an enabled output a plan (70_reset_and_hazards.md R182). -/
def Obligations.StepKeepsTheInvariant : Prop :=
  ∀ s t : State, Inv s → step s = .next t → Inv t

/-- The column "Written by" of 10_state.md R21: a register changes only in a step that is a reset event, or
a host write to it where the host may write it, or a command that writes it; PLAN changes only its own
channel. -/
def Obligations.RegistersChangeOnlyByTheirWriters : Prop :=
  ∀ (s t : State) (x : HostAccess) (xs : List HostAccess), s.pending = x :: xs → x ≠ .reset →
    step s = .next t →
    (t.status ≠ s.status → ∃ w, x = .write 0x00 4 w) ∧
    (t.term ≠ s.term → ∃ v, x = .write 0x02 4 v) ∧
    (t.dlen ≠ s.dlen → ∃ v, x = .write 0x03 4 v) ∧
    (t.freq ≠ s.freq → (∃ v, x = .write 0x04 4 v) ∨ x = .write 0x00 4 1) ∧
    (t.vco ≠ s.vco → ∃ v, x = .write 0x05 4 v) ∧
    (t.target ≠ s.target → ∃ v, x = .write 0x06 4 v) ∧
    (t.rdiv ≠ s.rdiv → ∃ v, x = .write 0x07 4 v) ∧
    (t.band ≠ s.band → x = .write 0x00 4 4) ∧
    (t.obuf ≠ s.obuf → x = .write 0x00 4 2) ∧
    (∀ i : Fin 16, t.ibuf[i] ≠ s.ibuf[i] → ∃ v, x = .write (0x10 + i.val) 4 v) ∧
    (∀ ch : Channel, t.plan ch ≠ s.plan ch ∨ t.outen.getLsbD ch.toNat ≠ s.outen.getLsbD ch.toNat →
      ch.toNat < s.cfg.nOut ∧ x = .write 0x00 4 (3#32 ||| ch.setWidth 32 <<< 4))

/-- Every step that answers a next state takes one access off the host's list and leaves N_OUT (log 1, log
2); a command, a store and a reset leave the value the host last read. -/
def Obligations.StepKeepsTheParameter : Prop :=
  ∀ s t : State, step s = .next t →
    t.cfg = s.cfg ∧ t.pending = s.pending.tail ∧
      (t.rdata ≠ s.rdata → ∃ a xs, s.pending = .read a 4 :: xs ∧ t.rdata = some (peek s a))

/-- 10_state.md R41: every command writes all of STATUS and none reads it ("the outcome of a command never
depends on STATUS"), no flag is sticky, and OVF and NDIG are 1 only after a successful DEC. -/
def Obligations.CommandsIgnoreStatus : Prop :=
  ∀ (i : Instr) (s : State) (st : BitVec 6), ∃ t : State,
    exec i s = .next t ∧ exec i { s with status := st } = .next t ∧
      (statusOvf t.status = true ∨ statusNdig t.status = true → i = .dec ∧ statusCode t.status = 0)

/-- Each command reads only what its own row of 30_encoding.md R72 lists, PLAN also N_OUT: two states equal in those
registers, and whatever the others hold, give equal STATUS and equal results (a new FREQ after a DEC that finds
its terminator, OBUF after ENC, BAND after BAND, the channel's enable and plan after PLAN). States equal in the
operands of every command stay so. -/
def Obligations.CommandsReadOnlyTheirOperands : Prop :=
  ∀ (i : Instr) (s s' : State), SameReads i s s' →
    ∃ t t' : State, exec i s = .next t ∧ exec i s' = .next t' ∧
      t.status = t'.status ∧ (SameOperands s s' → SameOperands t t') ∧
      (i = .dec → statusCode t.status = 0 → t.freq = t'.freq) ∧
      (i = .enc → t.obuf = t'.obuf) ∧ (i = .band → t.band = t'.band) ∧
      ∀ ch : Channel, i = .plan ch → ch.toNat < s.cfg.nOut →
        t.outen.getLsbD ch.toNat = t'.outen.getLsbD ch.toNat ∧
        (t.status = 0 → t.plan ch = t'.plan ch)

/-! ### Host programs -/

/-- What each statement and pseudo-statement expands to (30_encoding.md R78), on every operand of the syntax. That a
statement beyond the rule's limits (an absent channel, more than 16 values, an address above 255) expands all
the same, and that LDBUF, DECODE and PLANF take any 32-bit values, is the model's choice (log 12). -/
def Obligations.StatementsExpandAsTabled : Prop :=
  expand .nop = [.write 0 4 0x00000000] ∧ expand .dec = [.write 0 4 0x00000001] ∧
  expand .enc = [.write 0 4 0x00000002] ∧
  (∀ ch : Channel, expand (.plan ch) = [.write 0 4 (0x00000003#32 ||| ch.setWidth 32 <<< 4)]) ∧
  expand .band = [.write 0 4 0x00000004] ∧
  (∀ w, expand (.cmd w) = [.write 0 4 w]) ∧
  (∀ r v, expand (.wr (.name r) v) = [.write (addrOf r) 4 v]) ∧
  (∀ a v, expand (.wr (.addr a) v) = [.write a 4 v]) ∧
  (∀ r, expand (.rd (.name r)) = [.read (addrOf r) 4]) ∧
  (∀ a, expand (.rd (.addr a)) = [.read a 4]) ∧
  (∀ bs : List Word, (expand (.ldbuf bs)).length = bs.length ∧
    ∀ (i : Nat) (h : i < bs.length),
      (expand (.ldbuf bs))[i]? = some (.write (0x10 + i) 4 bs[i])) ∧
  (∀ bs, expand (.decode bs) = expand (.ldbuf bs) ++
    expand (.wr (.name .dlen) (BitVec.ofNat 32 bs.length)) ++ expand .dec) ∧
  ∀ ch v t r, expand (.planf ch v t r) = expand (.wr (.name .vco) v) ++
    expand (.wr (.name .target) t) ++ expand (.wr (.name .rdiv) r) ++ expand (.plan ch)

/-- Every statement 30_encoding.md section 4 admits expands to host operations of the block (size 4, address in
0..255), for every N_OUT of its range. -/
def Obligations.StatementsExpandToHostOperations : Prop :=
  ∀ (c : Config) (p : Stmt), c.Valid → p.wellFormed c = true →
    (expand p).all HostAccess.wellFormed = true
end

