-- ==== Sys2Proof/Laws/Decode.lean ====
section
/-! SUPPORT. The fields of a command word, and what the decoder can answer. -/

namespace Sys2Proof

theorem opField_toNat (w : Word) : (opField w).toNat = w.toNat % 16 := by
  simp [opField, BitVec.extractLsb'_toNat]

theorem chField_toNat (w : Word) : (chField w).toNat = w.toNat / 16 % 16 := by
  simp [chField, BitVec.extractLsb'_toNat, Nat.shiftRight_eq_div_pow]

theorem rsvField_toNat (w : Word) : (rsvField w).toNat = w.toNat / 256 := by
  simp only [rsvField, BitVec.extractLsb'_toNat, Nat.shiftRight_eq_div_pow]
  have := w.isLt
  omega

theorem commandWord_toNat (ch : Channel) (op : BitVec 4) :
    (commandWord ch op).toNat = ch.toNat * 16 + op.toNat := by
  have h : op.toNat < 2 ^ 4 := op.isLt
  rw [commandWord, BitVec.toNat_append, BitVec.toNat_append, ← Nat.shiftLeft_add_eq_or_of_lt h,
    Nat.shiftLeft_eq]
  simp

@[simp] theorem opField_commandWord (ch : Channel) (op : BitVec 4) :
    opField (commandWord ch op) = op := by
  have := op.isLt
  apply BitVec.eq_of_toNat_eq
  rw [opField_toNat, commandWord_toNat]
  omega

@[simp] theorem chField_commandWord (ch : Channel) (op : BitVec 4) :
    chField (commandWord ch op) = ch := by
  have := op.isLt
  have := ch.isLt
  apply BitVec.eq_of_toNat_eq
  rw [chField_toNat, commandWord_toNat]
  omega

@[simp] theorem rsvField_commandWord (ch : Channel) (op : BitVec 4) :
    rsvField (commandWord ch op) = 0 := by
  have := op.isLt
  have := ch.isLt
  apply BitVec.eq_of_toNat_eq
  rw [rsvField_toNat, commandWord_toNat]
  exact Nat.div_eq_of_lt (by omega)

/-- A word is its three fields (30_encoding.md R70). -/
theorem word_eq_fields (w : Word) : rsvField w ++ chField w ++ opField w = w := by
  apply BitVec.eq_of_getLsbD_eq
  intro i hi
  simp only [rsvField, chField, opField, BitVec.getLsbD_append, BitVec.getLsbD_extractLsb']
  by_cases h4 : i < 4
  · simp [h4]
  · by_cases h8 : i - 4 < 4
    · simp [h4, h8, show 4 + (i - 4) = i by omega]
    · simp [h4, h8, show 8 + (i - 4 - 4) = i by omega]; omega

/-- A word whose reserved field is zero is the command word of its channel and opcode. -/
theorem commandWord_of_rsvField {w : Word} (h : rsvField w = 0) :
    commandWord (chField w) (opField w) = w := by
  have := word_eq_fields w
  rw [h] at this
  exact this

/-- What `decodeLegal` answers, whole: a legal command that encodes back to the word, or a refusal of a word
that is not legal. -/
theorem decodeLegal_cases (c : Config) (w : Word) :
    (∃ i, decodeLegal c w = .ok i ∧ encode i = w ∧ legal c w = true ∧ i.wellFormed c = true ∧
        ∀ u, i ≠ .illegal u) ∨
      ∃ e, decodeLegal c w = .error e ∧ legal c w = false := by
  unfold decodeLegal legal withoutChannel
  by_cases hr : rsvField w = 0
  · have hw := commandWord_of_rsvField hr
    have key : ∀ op : BitVec 4, opField w = op → chField w = 0 → commandWord 0 op = w := by
      intro op ho hc
      rw [← ho, ← hc]
      exact hw
    simp only [hr, ne_eq, not_true_eq_false, if_false, beq_self_eq_true, Bool.true_and]
    by_cases hc : chField w = 0
    · split_ifs with h0 h1 h2 h3 h3' h4
      all_goals simp_all [encode, Instr.wellFormed]
    · split_ifs with h0 h1 h2 h3 h3' h4
      all_goals simp_all [encode, Instr.wellFormed]
  · right
    exact ⟨.reservedField, if_pos hr, by rw [beq_eq_false_iff_ne.mpr hr, Bool.false_and]⟩

/-- The decoder answers `illegal` exactly on the words that are not legal (30_encoding.md R75). -/
theorem decode_eq_illegal_iff (c : Config) (w : Word) :
    decode c w = .illegal w ↔ legal c w = false := by
  obtain ⟨i, hi, -, hl, -, hne⟩ | ⟨e, he, hl⟩ := decodeLegal_cases c w
  · simp [decode, hi, hl, hne w]
  · simp [decode, he, hl]

end Sys2Proof
end

