-- ==== Sys2Proof/Laws/Operands.lean ====
section
/-! SUPPORT. What the operand functions compute, said once: nibbles, the terminator search, the digit sum, the
encoder's bytes, the reduction loop, the divider fields. -/

namespace Sys2Proof.Machine

/-! ### Nibbles -/

theorem lo4_lt (x : Byte) : lo4 x < 16 := Nat.mod_lt _ (by decide)

theorem hi4_lt (x : Byte) : hi4 x < 16 := Nat.mod_lt _ (by decide)

theorem hi4_eq_div (x : Byte) : hi4 x = x.toNat / 16 := by
  have := x.isLt
  simp only [hi4]
  omega

theorem byte_toNat_eq (x : Byte) : x.toNat = hi4 x * 16 + lo4 x := by
  have := x.isLt
  simp only [hi4, lo4]
  omega

theorem byte_ext {x y : Byte} (hl : lo4 x = lo4 y) (hh : hi4 x = hi4 y) : x = y := by
  apply BitVec.eq_of_toNat_eq
  rw [byte_toNat_eq, byte_toNat_eq y, hl, hh]

/-! ### The terminator search -/

/-- The search fails exactly where no byte equals the terminator. -/
theorem untilTerm_eq_none_iff (t : Byte) (bs : List Byte) :
    untilTerm t bs = none ↔ ∀ b ∈ bs, b ≠ t := by
  induction bs with
  | nil => simp [untilTerm]
  | cons b bs ih =>
    by_cases h : b = t <;> simp [untilTerm, h, ih]

/-- The search answers the bytes before the first terminator. -/
theorem untilTerm_eq_some_iff (t : Byte) (bs xs : List Byte) :
    untilTerm t bs = some xs ↔ ∃ rest, bs = xs ++ t :: rest ∧ ∀ b ∈ xs, b ≠ t := by
  induction bs generalizing xs with
  | nil => simp [untilTerm]
  | cons b bs ih =>
    by_cases h : b = t
    · subst h
      cases xs with
      | nil => simp [untilTerm]
      | cons x xs =>
        simp only [untilTerm, if_true, Option.some.injEq, reduceCtorEq, List.cons_append, List.cons.injEq,
          false_iff, not_exists, not_and]
        rintro rest ⟨rfl, -⟩ hne
        exact hne b (by simp) rfl
    · cases xs with
      | nil =>
        simp only [untilTerm, h, if_false, Option.map_eq_some_iff, reduceCtorEq, and_false, exists_false,
          List.nil_append, List.cons.injEq, false_and]
      | cons x xs =>
        simp only [untilTerm, h, if_false, Option.map_eq_some_iff, List.cons.injEq, List.cons_append, ih]
        constructor
        · rintro ⟨a, ⟨rest, rfl, hne⟩, rfl, rfl⟩
          exact ⟨rest, ⟨rfl, rfl⟩, by simpa [h] using hne⟩
        · rintro ⟨rest, ⟨rfl, rfl⟩, hne⟩
          exact ⟨xs, ⟨rest, rfl, fun b hb => hne b (by simp [hb])⟩, rfl, rfl⟩

/-! ### The digit sum -/

/-- The digit sum as the sum of 40_codec.md R100 over byte indices. -/
theorem digitSumFrom_eq_sum (k : Nat) (bs : List Byte) :
    digitSumFrom k bs = ∑ i ∈ Finset.range bs.length,
      (lo4 (bs.getD i 0) * 10 ^ (k + 2 * i) + hi4 (bs.getD i 0) * 10 ^ (k + 2 * i + 1)) := by
  induction bs generalizing k with
  | nil => simp [digitSumFrom]
  | cons b bs ih =>
    rw [List.length_cons, Finset.sum_range_succ', digitSumFrom, ih]
    simp only [List.getD_cons_succ, List.getD_cons_zero, Nat.mul_zero, Nat.add_zero]
    rw [Nat.add_comm]
    congr 1
    refine Finset.sum_congr rfl fun i _ => ?_
    rw [show k + 2 + 2 * i = k + 2 * (i + 1) by ring]

/-- NDIG's condition over the bytes. -/
theorem anyNonDigit_iff (bs : List Byte) :
    anyNonDigit bs = true ↔ ∃ b ∈ bs, 9 < lo4 b ∨ 9 < hi4 b := by
  simp only [anyNonDigit, List.any_eq_true, Bool.or_eq_true, decide_eq_true_eq]

/-! ### The encoder's bytes -/

theorem encodeByte_toNat (v i : Nat) :
    (encodeByte v i).toNat = v / 10 ^ (2 * i + 1) % 10 * 16 + v / 10 ^ (2 * i) % 10 := by
  have h1 : v / 10 ^ (2 * i + 1) % 10 < 10 := Nat.mod_lt _ (by decide)
  have h0 : v / 10 ^ (2 * i) % 10 < 2 ^ 4 := lt_trans (Nat.mod_lt _ (by decide)) (by decide)
  rw [encodeByte, ← Nat.shiftLeft_add_eq_or_of_lt h0, BitVec.toNat_ofNat, Nat.shiftLeft_eq]
  omega

@[simp] theorem lo4_encodeByte (v i : Nat) : lo4 (encodeByte v i) = v / 10 ^ (2 * i) % 10 := by
  have h : v / 10 ^ (2 * i) % 10 < 10 := Nat.mod_lt _ (by decide)
  rw [lo4, encodeByte_toNat]
  omega

@[simp] theorem hi4_encodeByte (v i : Nat) : hi4 (encodeByte v i) = v / 10 ^ (2 * i + 1) % 10 := by
  have h : v / 10 ^ (2 * i) % 10 < 10 := Nat.mod_lt _ (by decide)
  have h' : v / 10 ^ (2 * i + 1) % 10 < 10 := Nat.mod_lt _ (by decide)
  rw [hi4, encodeByte_toNat]
  omega

theorem encodeBytes_getElem (v : Nat) (i : Fin 5) :
    (encodeBytes v)[i.val]'i.isLt = encodeByte v i.val := by
  fin_cases i <;> rfl

theorem encodeBytes_toList (v : Nat) :
    (encodeBytes v).toList =
      [encodeByte v 0, encodeByte v 1, encodeByte v 2, encodeByte v 3, encodeByte v 4] := rfl

/-! ### The reduction loop -/

/-- The loop, whole: it shifts both values k times, where k is the first count that brings c below 2^20
(41_planner.md R121). -/
theorem reduce_spec (n b c : Nat) (h : c < 2 ^ (20 + n)) :
    ∃ k ≤ n, reduce n (b, c) = (b / 2 ^ k, c / 2 ^ k) ∧ c / 2 ^ k < 2 ^ 20 ∧
      ∀ j < k, 2 ^ 20 ≤ c / 2 ^ j := by
  induction n generalizing b c with
  | zero => exact ⟨0, le_rfl, by simp [reduce], by simpa using h, by simp⟩
  | succ n ih =>
    by_cases hc : cLimit ≤ c
    · obtain ⟨k, hk, he, hl, hj⟩ := ih (b / 2) (c / 2) (by
        rw [Nat.div_lt_iff_lt_mul (by decide)]
        calc c < 2 ^ (20 + (n + 1)) := h
          _ = 2 ^ (20 + n) * 2 := by ring)
      refine ⟨k + 1, by omega, ?_, ?_, ?_⟩
      · rw [reduce, if_pos hc, he, Nat.div_div_eq_div_mul, Nat.div_div_eq_div_mul, pow_succ']
      · rwa [pow_succ', ← Nat.div_div_eq_div_mul]
      · intro j hjk
        cases j with
        | zero => simpa [cLimit] using hc
        | succ j =>
          have := hj j (by omega)
          rwa [Nat.div_div_eq_div_mul, ← pow_succ'] at this
    · refine ⟨0, by omega, by rw [reduce, if_neg hc]; simp, ?_, by simp⟩
      simp only [cLimit] at hc
      simpa using hc

/-- 32 turns are enough for every 32-bit c. -/
theorem reduce_snd_lt (b c : Nat) (h : c < 2 ^ 32) : (reduce 32 (b, c)).2 < cLimit := by
  obtain ⟨k, -, he, hl, -⟩ := reduce_spec 32 b c (lt_trans h (by decide))
  rw [he]
  exact hl

/-- (b, c) after the loop for a target of 32 bits (41_planner.md R121). -/
theorem reducedRatio_spec (v t : Nat) (h : t < 2 ^ 32) :
    ∃ k, reducedRatio v t = (v % t / 2 ^ k, t / 2 ^ k) ∧ t / 2 ^ k < 2 ^ 20 ∧
      ∀ j < k, 2 ^ 20 ≤ t / 2 ^ j := by
  obtain ⟨k, -, he, hl, hj⟩ := reduce_spec 32 (v % t) t (lt_trans h (by decide))
  exact ⟨k, he, hl, hj⟩

/-! ### The divider fields -/

theorem inRange_iff (t : Nat) : inRange t = true ↔ 500000 ≤ t ∧ t ≤ 109000000 := by
  simp only [inRange, Bool.and_eq_true, decide_eq_true_eq]
  rfl

theorem inRange_eq_false_iff (t : Nat) : inRange t = false ↔ t < 500000 ∨ 109000000 < t := by
  rw [← Bool.not_eq_true, inRange_iff]
  omega

/-- P2 before narrowing is a remainder (41_planner.md R121: "= (128*b) mod c"). -/
theorem fracRemainder_eq_mod (b c : Nat) : fracScale * b - fracPart b c * c = fracScale * b % c := by
  have h := Nat.div_add_mod (fracScale * b) c
  rw [Nat.mul_comm c] at h
  simp only [fracPart]
  omega

end Sys2Proof.Machine
end

