-- ==== Sys2Proof/Laws/State.lean ====
section
/-! SUPPORT. One lemma per field per update, true by rfl: no later proof unfolds a record update. -/

namespace Sys2Proof.Machine

section
variable (s : State)

@[simp] theorem State.setStatus_cfg (v : BitVec 6) : (s.setStatus v).cfg = s.cfg := rfl
@[simp] theorem State.setStatus_status (v : BitVec 6) : (s.setStatus v).status = v := rfl
@[simp] theorem State.setStatus_term (v : BitVec 6) : (s.setStatus v).term = s.term := rfl
@[simp] theorem State.setStatus_dlen (v : BitVec 6) : (s.setStatus v).dlen = s.dlen := rfl
@[simp] theorem State.setStatus_freq (v : BitVec 6) : (s.setStatus v).freq = s.freq := rfl
@[simp] theorem State.setStatus_vco (v : BitVec 6) : (s.setStatus v).vco = s.vco := rfl
@[simp] theorem State.setStatus_target (v : BitVec 6) : (s.setStatus v).target = s.target := rfl
@[simp] theorem State.setStatus_rdiv (v : BitVec 6) : (s.setStatus v).rdiv = s.rdiv := rfl
@[simp] theorem State.setStatus_band (v : BitVec 6) : (s.setStatus v).band = s.band := rfl
@[simp] theorem State.setStatus_outen (v : BitVec 6) : (s.setStatus v).outen = s.outen := rfl
@[simp] theorem State.setStatus_ibuf (v : BitVec 6) : (s.setStatus v).ibuf = s.ibuf := rfl
@[simp] theorem State.setStatus_obuf (v : BitVec 6) : (s.setStatus v).obuf = s.obuf := rfl
@[simp] theorem State.setStatus_plans (v : BitVec 6) : (s.setStatus v).plans = s.plans := rfl
@[simp] theorem State.setStatus_pending (v : BitVec 6) : (s.setStatus v).pending = s.pending := rfl
@[simp] theorem State.setStatus_rdata (v : BitVec 6) : (s.setStatus v).rdata = s.rdata := rfl

@[simp] theorem State.setTerm_cfg (v : Byte) : (s.setTerm v).cfg = s.cfg := rfl
@[simp] theorem State.setTerm_status (v : Byte) : (s.setTerm v).status = s.status := rfl
@[simp] theorem State.setTerm_term (v : Byte) : (s.setTerm v).term = v := rfl
@[simp] theorem State.setTerm_dlen (v : Byte) : (s.setTerm v).dlen = s.dlen := rfl
@[simp] theorem State.setTerm_freq (v : Byte) : (s.setTerm v).freq = s.freq := rfl
@[simp] theorem State.setTerm_vco (v : Byte) : (s.setTerm v).vco = s.vco := rfl
@[simp] theorem State.setTerm_target (v : Byte) : (s.setTerm v).target = s.target := rfl
@[simp] theorem State.setTerm_rdiv (v : Byte) : (s.setTerm v).rdiv = s.rdiv := rfl
@[simp] theorem State.setTerm_band (v : Byte) : (s.setTerm v).band = s.band := rfl
@[simp] theorem State.setTerm_outen (v : Byte) : (s.setTerm v).outen = s.outen := rfl
@[simp] theorem State.setTerm_ibuf (v : Byte) : (s.setTerm v).ibuf = s.ibuf := rfl
@[simp] theorem State.setTerm_obuf (v : Byte) : (s.setTerm v).obuf = s.obuf := rfl
@[simp] theorem State.setTerm_plans (v : Byte) : (s.setTerm v).plans = s.plans := rfl
@[simp] theorem State.setTerm_pending (v : Byte) : (s.setTerm v).pending = s.pending := rfl
@[simp] theorem State.setTerm_rdata (v : Byte) : (s.setTerm v).rdata = s.rdata := rfl

@[simp] theorem State.setDlen_cfg (v : Byte) : (s.setDlen v).cfg = s.cfg := rfl
@[simp] theorem State.setDlen_status (v : Byte) : (s.setDlen v).status = s.status := rfl
@[simp] theorem State.setDlen_term (v : Byte) : (s.setDlen v).term = s.term := rfl
@[simp] theorem State.setDlen_dlen (v : Byte) : (s.setDlen v).dlen = v := rfl
@[simp] theorem State.setDlen_freq (v : Byte) : (s.setDlen v).freq = s.freq := rfl
@[simp] theorem State.setDlen_vco (v : Byte) : (s.setDlen v).vco = s.vco := rfl
@[simp] theorem State.setDlen_target (v : Byte) : (s.setDlen v).target = s.target := rfl
@[simp] theorem State.setDlen_rdiv (v : Byte) : (s.setDlen v).rdiv = s.rdiv := rfl
@[simp] theorem State.setDlen_band (v : Byte) : (s.setDlen v).band = s.band := rfl
@[simp] theorem State.setDlen_outen (v : Byte) : (s.setDlen v).outen = s.outen := rfl
@[simp] theorem State.setDlen_ibuf (v : Byte) : (s.setDlen v).ibuf = s.ibuf := rfl
@[simp] theorem State.setDlen_obuf (v : Byte) : (s.setDlen v).obuf = s.obuf := rfl
@[simp] theorem State.setDlen_plans (v : Byte) : (s.setDlen v).plans = s.plans := rfl
@[simp] theorem State.setDlen_pending (v : Byte) : (s.setDlen v).pending = s.pending := rfl
@[simp] theorem State.setDlen_rdata (v : Byte) : (s.setDlen v).rdata = s.rdata := rfl

@[simp] theorem State.setFreq_cfg (v : Word) : (s.setFreq v).cfg = s.cfg := rfl
@[simp] theorem State.setFreq_status (v : Word) : (s.setFreq v).status = s.status := rfl
@[simp] theorem State.setFreq_term (v : Word) : (s.setFreq v).term = s.term := rfl
@[simp] theorem State.setFreq_dlen (v : Word) : (s.setFreq v).dlen = s.dlen := rfl
@[simp] theorem State.setFreq_freq (v : Word) : (s.setFreq v).freq = v := rfl
@[simp] theorem State.setFreq_vco (v : Word) : (s.setFreq v).vco = s.vco := rfl
@[simp] theorem State.setFreq_target (v : Word) : (s.setFreq v).target = s.target := rfl
@[simp] theorem State.setFreq_rdiv (v : Word) : (s.setFreq v).rdiv = s.rdiv := rfl
@[simp] theorem State.setFreq_band (v : Word) : (s.setFreq v).band = s.band := rfl
@[simp] theorem State.setFreq_outen (v : Word) : (s.setFreq v).outen = s.outen := rfl
@[simp] theorem State.setFreq_ibuf (v : Word) : (s.setFreq v).ibuf = s.ibuf := rfl
@[simp] theorem State.setFreq_obuf (v : Word) : (s.setFreq v).obuf = s.obuf := rfl
@[simp] theorem State.setFreq_plans (v : Word) : (s.setFreq v).plans = s.plans := rfl
@[simp] theorem State.setFreq_pending (v : Word) : (s.setFreq v).pending = s.pending := rfl
@[simp] theorem State.setFreq_rdata (v : Word) : (s.setFreq v).rdata = s.rdata := rfl

@[simp] theorem State.setVco_cfg (v : Word) : (s.setVco v).cfg = s.cfg := rfl
@[simp] theorem State.setVco_status (v : Word) : (s.setVco v).status = s.status := rfl
@[simp] theorem State.setVco_term (v : Word) : (s.setVco v).term = s.term := rfl
@[simp] theorem State.setVco_dlen (v : Word) : (s.setVco v).dlen = s.dlen := rfl
@[simp] theorem State.setVco_freq (v : Word) : (s.setVco v).freq = s.freq := rfl
@[simp] theorem State.setVco_vco (v : Word) : (s.setVco v).vco = v := rfl
@[simp] theorem State.setVco_target (v : Word) : (s.setVco v).target = s.target := rfl
@[simp] theorem State.setVco_rdiv (v : Word) : (s.setVco v).rdiv = s.rdiv := rfl
@[simp] theorem State.setVco_band (v : Word) : (s.setVco v).band = s.band := rfl
@[simp] theorem State.setVco_outen (v : Word) : (s.setVco v).outen = s.outen := rfl
@[simp] theorem State.setVco_ibuf (v : Word) : (s.setVco v).ibuf = s.ibuf := rfl
@[simp] theorem State.setVco_obuf (v : Word) : (s.setVco v).obuf = s.obuf := rfl
@[simp] theorem State.setVco_plans (v : Word) : (s.setVco v).plans = s.plans := rfl
@[simp] theorem State.setVco_pending (v : Word) : (s.setVco v).pending = s.pending := rfl
@[simp] theorem State.setVco_rdata (v : Word) : (s.setVco v).rdata = s.rdata := rfl

@[simp] theorem State.setTarget_cfg (v : Word) : (s.setTarget v).cfg = s.cfg := rfl
@[simp] theorem State.setTarget_status (v : Word) : (s.setTarget v).status = s.status := rfl
@[simp] theorem State.setTarget_term (v : Word) : (s.setTarget v).term = s.term := rfl
@[simp] theorem State.setTarget_dlen (v : Word) : (s.setTarget v).dlen = s.dlen := rfl
@[simp] theorem State.setTarget_freq (v : Word) : (s.setTarget v).freq = s.freq := rfl
@[simp] theorem State.setTarget_vco (v : Word) : (s.setTarget v).vco = s.vco := rfl
@[simp] theorem State.setTarget_target (v : Word) : (s.setTarget v).target = v := rfl
@[simp] theorem State.setTarget_rdiv (v : Word) : (s.setTarget v).rdiv = s.rdiv := rfl
@[simp] theorem State.setTarget_band (v : Word) : (s.setTarget v).band = s.band := rfl
@[simp] theorem State.setTarget_outen (v : Word) : (s.setTarget v).outen = s.outen := rfl
@[simp] theorem State.setTarget_ibuf (v : Word) : (s.setTarget v).ibuf = s.ibuf := rfl
@[simp] theorem State.setTarget_obuf (v : Word) : (s.setTarget v).obuf = s.obuf := rfl
@[simp] theorem State.setTarget_plans (v : Word) : (s.setTarget v).plans = s.plans := rfl
@[simp] theorem State.setTarget_pending (v : Word) : (s.setTarget v).pending = s.pending := rfl
@[simp] theorem State.setTarget_rdata (v : Word) : (s.setTarget v).rdata = s.rdata := rfl

@[simp] theorem State.setRdiv_cfg (v : Byte) : (s.setRdiv v).cfg = s.cfg := rfl
@[simp] theorem State.setRdiv_status (v : Byte) : (s.setRdiv v).status = s.status := rfl
@[simp] theorem State.setRdiv_term (v : Byte) : (s.setRdiv v).term = s.term := rfl
@[simp] theorem State.setRdiv_dlen (v : Byte) : (s.setRdiv v).dlen = s.dlen := rfl
@[simp] theorem State.setRdiv_freq (v : Byte) : (s.setRdiv v).freq = s.freq := rfl
@[simp] theorem State.setRdiv_vco (v : Byte) : (s.setRdiv v).vco = s.vco := rfl
@[simp] theorem State.setRdiv_target (v : Byte) : (s.setRdiv v).target = s.target := rfl
@[simp] theorem State.setRdiv_rdiv (v : Byte) : (s.setRdiv v).rdiv = v := rfl
@[simp] theorem State.setRdiv_band (v : Byte) : (s.setRdiv v).band = s.band := rfl
@[simp] theorem State.setRdiv_outen (v : Byte) : (s.setRdiv v).outen = s.outen := rfl
@[simp] theorem State.setRdiv_ibuf (v : Byte) : (s.setRdiv v).ibuf = s.ibuf := rfl
@[simp] theorem State.setRdiv_obuf (v : Byte) : (s.setRdiv v).obuf = s.obuf := rfl
@[simp] theorem State.setRdiv_plans (v : Byte) : (s.setRdiv v).plans = s.plans := rfl
@[simp] theorem State.setRdiv_pending (v : Byte) : (s.setRdiv v).pending = s.pending := rfl
@[simp] theorem State.setRdiv_rdata (v : Byte) : (s.setRdiv v).rdata = s.rdata := rfl

@[simp] theorem State.setBand_cfg (v : BitVec 3) : (s.setBand v).cfg = s.cfg := rfl
@[simp] theorem State.setBand_status (v : BitVec 3) : (s.setBand v).status = s.status := rfl
@[simp] theorem State.setBand_term (v : BitVec 3) : (s.setBand v).term = s.term := rfl
@[simp] theorem State.setBand_dlen (v : BitVec 3) : (s.setBand v).dlen = s.dlen := rfl
@[simp] theorem State.setBand_freq (v : BitVec 3) : (s.setBand v).freq = s.freq := rfl
@[simp] theorem State.setBand_vco (v : BitVec 3) : (s.setBand v).vco = s.vco := rfl
@[simp] theorem State.setBand_target (v : BitVec 3) : (s.setBand v).target = s.target := rfl
@[simp] theorem State.setBand_rdiv (v : BitVec 3) : (s.setBand v).rdiv = s.rdiv := rfl
@[simp] theorem State.setBand_band (v : BitVec 3) : (s.setBand v).band = v := rfl
@[simp] theorem State.setBand_outen (v : BitVec 3) : (s.setBand v).outen = s.outen := rfl
@[simp] theorem State.setBand_ibuf (v : BitVec 3) : (s.setBand v).ibuf = s.ibuf := rfl
@[simp] theorem State.setBand_obuf (v : BitVec 3) : (s.setBand v).obuf = s.obuf := rfl
@[simp] theorem State.setBand_plans (v : BitVec 3) : (s.setBand v).plans = s.plans := rfl
@[simp] theorem State.setBand_pending (v : BitVec 3) : (s.setBand v).pending = s.pending := rfl
@[simp] theorem State.setBand_rdata (v : BitVec 3) : (s.setBand v).rdata = s.rdata := rfl

@[simp] theorem State.setOuten_cfg (ch : Channel) (v : Bool) : (s.setOuten ch v).cfg = s.cfg := rfl
@[simp] theorem State.setOuten_status (ch : Channel) (v : Bool) : (s.setOuten ch v).status = s.status := rfl
@[simp] theorem State.setOuten_term (ch : Channel) (v : Bool) : (s.setOuten ch v).term = s.term := rfl
@[simp] theorem State.setOuten_dlen (ch : Channel) (v : Bool) : (s.setOuten ch v).dlen = s.dlen := rfl
@[simp] theorem State.setOuten_freq (ch : Channel) (v : Bool) : (s.setOuten ch v).freq = s.freq := rfl
@[simp] theorem State.setOuten_vco (ch : Channel) (v : Bool) : (s.setOuten ch v).vco = s.vco := rfl
@[simp] theorem State.setOuten_target (ch : Channel) (v : Bool) : (s.setOuten ch v).target = s.target := rfl
@[simp] theorem State.setOuten_rdiv (ch : Channel) (v : Bool) : (s.setOuten ch v).rdiv = s.rdiv := rfl
@[simp] theorem State.setOuten_band (ch : Channel) (v : Bool) : (s.setOuten ch v).band = s.band := rfl
@[simp] theorem State.setOuten_outen (ch : Channel) (v : Bool) :
    (s.setOuten ch v).outen = if v then s.outen ||| BitVec.twoPow 16 ch.toNat else s.outen &&& ~~~ BitVec.twoPow 16 ch.toNat := rfl
@[simp] theorem State.setOuten_ibuf (ch : Channel) (v : Bool) : (s.setOuten ch v).ibuf = s.ibuf := rfl
@[simp] theorem State.setOuten_obuf (ch : Channel) (v : Bool) : (s.setOuten ch v).obuf = s.obuf := rfl
@[simp] theorem State.setOuten_plans (ch : Channel) (v : Bool) : (s.setOuten ch v).plans = s.plans := rfl
@[simp] theorem State.setOuten_pending (ch : Channel) (v : Bool) : (s.setOuten ch v).pending = s.pending := rfl
@[simp] theorem State.setOuten_rdata (ch : Channel) (v : Bool) : (s.setOuten ch v).rdata = s.rdata := rfl

@[simp] theorem State.setIbuf_cfg (i : Fin 16) (v : Byte) : (s.setIbuf i v).cfg = s.cfg := rfl
@[simp] theorem State.setIbuf_status (i : Fin 16) (v : Byte) : (s.setIbuf i v).status = s.status := rfl
@[simp] theorem State.setIbuf_term (i : Fin 16) (v : Byte) : (s.setIbuf i v).term = s.term := rfl
@[simp] theorem State.setIbuf_dlen (i : Fin 16) (v : Byte) : (s.setIbuf i v).dlen = s.dlen := rfl
@[simp] theorem State.setIbuf_freq (i : Fin 16) (v : Byte) : (s.setIbuf i v).freq = s.freq := rfl
@[simp] theorem State.setIbuf_vco (i : Fin 16) (v : Byte) : (s.setIbuf i v).vco = s.vco := rfl
@[simp] theorem State.setIbuf_target (i : Fin 16) (v : Byte) : (s.setIbuf i v).target = s.target := rfl
@[simp] theorem State.setIbuf_rdiv (i : Fin 16) (v : Byte) : (s.setIbuf i v).rdiv = s.rdiv := rfl
@[simp] theorem State.setIbuf_band (i : Fin 16) (v : Byte) : (s.setIbuf i v).band = s.band := rfl
@[simp] theorem State.setIbuf_outen (i : Fin 16) (v : Byte) : (s.setIbuf i v).outen = s.outen := rfl
@[simp] theorem State.setIbuf_ibuf (i : Fin 16) (v : Byte) :
    (s.setIbuf i v).ibuf = s.ibuf.set i.val v i.isLt := rfl
@[simp] theorem State.setIbuf_obuf (i : Fin 16) (v : Byte) : (s.setIbuf i v).obuf = s.obuf := rfl
@[simp] theorem State.setIbuf_plans (i : Fin 16) (v : Byte) : (s.setIbuf i v).plans = s.plans := rfl
@[simp] theorem State.setIbuf_pending (i : Fin 16) (v : Byte) : (s.setIbuf i v).pending = s.pending := rfl
@[simp] theorem State.setIbuf_rdata (i : Fin 16) (v : Byte) : (s.setIbuf i v).rdata = s.rdata := rfl

@[simp] theorem State.setObuf_cfg (v : Vector Byte 5) : (s.setObuf v).cfg = s.cfg := rfl
@[simp] theorem State.setObuf_status (v : Vector Byte 5) : (s.setObuf v).status = s.status := rfl
@[simp] theorem State.setObuf_term (v : Vector Byte 5) : (s.setObuf v).term = s.term := rfl
@[simp] theorem State.setObuf_dlen (v : Vector Byte 5) : (s.setObuf v).dlen = s.dlen := rfl
@[simp] theorem State.setObuf_freq (v : Vector Byte 5) : (s.setObuf v).freq = s.freq := rfl
@[simp] theorem State.setObuf_vco (v : Vector Byte 5) : (s.setObuf v).vco = s.vco := rfl
@[simp] theorem State.setObuf_target (v : Vector Byte 5) : (s.setObuf v).target = s.target := rfl
@[simp] theorem State.setObuf_rdiv (v : Vector Byte 5) : (s.setObuf v).rdiv = s.rdiv := rfl
@[simp] theorem State.setObuf_band (v : Vector Byte 5) : (s.setObuf v).band = s.band := rfl
@[simp] theorem State.setObuf_outen (v : Vector Byte 5) : (s.setObuf v).outen = s.outen := rfl
@[simp] theorem State.setObuf_ibuf (v : Vector Byte 5) : (s.setObuf v).ibuf = s.ibuf := rfl
@[simp] theorem State.setObuf_obuf (v : Vector Byte 5) : (s.setObuf v).obuf = v := rfl
@[simp] theorem State.setObuf_plans (v : Vector Byte 5) : (s.setObuf v).plans = s.plans := rfl
@[simp] theorem State.setObuf_pending (v : Vector Byte 5) : (s.setObuf v).pending = s.pending := rfl
@[simp] theorem State.setObuf_rdata (v : Vector Byte 5) : (s.setObuf v).rdata = s.rdata := rfl

@[simp] theorem State.setPlan_cfg (ch : Channel) (v : PlanRegs) : (s.setPlan ch v).cfg = s.cfg := rfl
@[simp] theorem State.setPlan_status (ch : Channel) (v : PlanRegs) : (s.setPlan ch v).status = s.status := rfl
@[simp] theorem State.setPlan_term (ch : Channel) (v : PlanRegs) : (s.setPlan ch v).term = s.term := rfl
@[simp] theorem State.setPlan_dlen (ch : Channel) (v : PlanRegs) : (s.setPlan ch v).dlen = s.dlen := rfl
@[simp] theorem State.setPlan_freq (ch : Channel) (v : PlanRegs) : (s.setPlan ch v).freq = s.freq := rfl
@[simp] theorem State.setPlan_vco (ch : Channel) (v : PlanRegs) : (s.setPlan ch v).vco = s.vco := rfl
@[simp] theorem State.setPlan_target (ch : Channel) (v : PlanRegs) : (s.setPlan ch v).target = s.target := rfl
@[simp] theorem State.setPlan_rdiv (ch : Channel) (v : PlanRegs) : (s.setPlan ch v).rdiv = s.rdiv := rfl
@[simp] theorem State.setPlan_band (ch : Channel) (v : PlanRegs) : (s.setPlan ch v).band = s.band := rfl
@[simp] theorem State.setPlan_outen (ch : Channel) (v : PlanRegs) : (s.setPlan ch v).outen = s.outen := rfl
@[simp] theorem State.setPlan_ibuf (ch : Channel) (v : PlanRegs) : (s.setPlan ch v).ibuf = s.ibuf := rfl
@[simp] theorem State.setPlan_obuf (ch : Channel) (v : PlanRegs) : (s.setPlan ch v).obuf = s.obuf := rfl
@[simp] theorem State.setPlan_plans (ch : Channel) (v : PlanRegs) :
    (s.setPlan ch v).plans = s.plans.set ch.toNat v ch.isLt := rfl
@[simp] theorem State.setPlan_pending (ch : Channel) (v : PlanRegs) : (s.setPlan ch v).pending = s.pending := rfl
@[simp] theorem State.setPlan_rdata (ch : Channel) (v : PlanRegs) : (s.setPlan ch v).rdata = s.rdata := rfl

@[simp] theorem State.setRdata_cfg (v : Word) : (s.setRdata v).cfg = s.cfg := rfl
@[simp] theorem State.setRdata_status (v : Word) : (s.setRdata v).status = s.status := rfl
@[simp] theorem State.setRdata_term (v : Word) : (s.setRdata v).term = s.term := rfl
@[simp] theorem State.setRdata_dlen (v : Word) : (s.setRdata v).dlen = s.dlen := rfl
@[simp] theorem State.setRdata_freq (v : Word) : (s.setRdata v).freq = s.freq := rfl
@[simp] theorem State.setRdata_vco (v : Word) : (s.setRdata v).vco = s.vco := rfl
@[simp] theorem State.setRdata_target (v : Word) : (s.setRdata v).target = s.target := rfl
@[simp] theorem State.setRdata_rdiv (v : Word) : (s.setRdata v).rdiv = s.rdiv := rfl
@[simp] theorem State.setRdata_band (v : Word) : (s.setRdata v).band = s.band := rfl
@[simp] theorem State.setRdata_outen (v : Word) : (s.setRdata v).outen = s.outen := rfl
@[simp] theorem State.setRdata_ibuf (v : Word) : (s.setRdata v).ibuf = s.ibuf := rfl
@[simp] theorem State.setRdata_obuf (v : Word) : (s.setRdata v).obuf = s.obuf := rfl
@[simp] theorem State.setRdata_plans (v : Word) : (s.setRdata v).plans = s.plans := rfl
@[simp] theorem State.setRdata_pending (v : Word) : (s.setRdata v).pending = s.pending := rfl
@[simp] theorem State.setRdata_rdata (v : Word) : (s.setRdata v).rdata = some v := rfl

/-! A finished or raised command changes STATUS alone. -/

@[simp] theorem finish_cfg (c : Code) (o n : Bool) : (finish c o n s).cfg = s.cfg := rfl
@[simp] theorem finish_status (c : Code) (o n : Bool) : (finish c o n s).status = statusOf c o n := rfl
@[simp] theorem finish_term (c : Code) (o n : Bool) : (finish c o n s).term = s.term := rfl
@[simp] theorem finish_dlen (c : Code) (o n : Bool) : (finish c o n s).dlen = s.dlen := rfl
@[simp] theorem finish_freq (c : Code) (o n : Bool) : (finish c o n s).freq = s.freq := rfl
@[simp] theorem finish_vco (c : Code) (o n : Bool) : (finish c o n s).vco = s.vco := rfl
@[simp] theorem finish_target (c : Code) (o n : Bool) : (finish c o n s).target = s.target := rfl
@[simp] theorem finish_rdiv (c : Code) (o n : Bool) : (finish c o n s).rdiv = s.rdiv := rfl
@[simp] theorem finish_band (c : Code) (o n : Bool) : (finish c o n s).band = s.band := rfl
@[simp] theorem finish_outen (c : Code) (o n : Bool) : (finish c o n s).outen = s.outen := rfl
@[simp] theorem finish_ibuf (c : Code) (o n : Bool) : (finish c o n s).ibuf = s.ibuf := rfl
@[simp] theorem finish_obuf (c : Code) (o n : Bool) : (finish c o n s).obuf = s.obuf := rfl
@[simp] theorem finish_plans (c : Code) (o n : Bool) : (finish c o n s).plans = s.plans := rfl
@[simp] theorem finish_pending (c : Code) (o n : Bool) : (finish c o n s).pending = s.pending := rfl
@[simp] theorem finish_rdata (c : Code) (o n : Bool) : (finish c o n s).rdata = s.rdata := rfl

@[simp] theorem raise_cfg (c : Code) : (raise c s).cfg = s.cfg := rfl
@[simp] theorem raise_status (c : Code) : (raise c s).status = statusOf c false false := rfl
@[simp] theorem raise_term (c : Code) : (raise c s).term = s.term := rfl
@[simp] theorem raise_dlen (c : Code) : (raise c s).dlen = s.dlen := rfl
@[simp] theorem raise_freq (c : Code) : (raise c s).freq = s.freq := rfl
@[simp] theorem raise_vco (c : Code) : (raise c s).vco = s.vco := rfl
@[simp] theorem raise_target (c : Code) : (raise c s).target = s.target := rfl
@[simp] theorem raise_rdiv (c : Code) : (raise c s).rdiv = s.rdiv := rfl
@[simp] theorem raise_band (c : Code) : (raise c s).band = s.band := rfl
@[simp] theorem raise_outen (c : Code) : (raise c s).outen = s.outen := rfl
@[simp] theorem raise_ibuf (c : Code) : (raise c s).ibuf = s.ibuf := rfl
@[simp] theorem raise_obuf (c : Code) : (raise c s).obuf = s.obuf := rfl
@[simp] theorem raise_plans (c : Code) : (raise c s).plans = s.plans := rfl
@[simp] theorem raise_pending (c : Code) : (raise c s).pending = s.pending := rfl
@[simp] theorem raise_rdata (c : Code) : (raise c s).rdata = s.rdata := rfl

/-! The registers after a reset event (70_reset_and_hazards.md R180). -/

@[simp] theorem State.resetRegisters_cfg : s.resetRegisters.cfg = s.cfg := rfl
@[simp] theorem State.resetRegisters_status : s.resetRegisters.status = 0 := rfl
@[simp] theorem State.resetRegisters_term : s.resetRegisters.term = 0xFD := rfl
@[simp] theorem State.resetRegisters_dlen : s.resetRegisters.dlen = 6 := rfl
@[simp] theorem State.resetRegisters_freq : s.resetRegisters.freq = 0 := rfl
@[simp] theorem State.resetRegisters_vco : s.resetRegisters.vco = 0 := rfl
@[simp] theorem State.resetRegisters_target : s.resetRegisters.target = 0 := rfl
@[simp] theorem State.resetRegisters_rdiv : s.resetRegisters.rdiv = 0 := rfl
@[simp] theorem State.resetRegisters_band : s.resetRegisters.band = 4 := rfl
@[simp] theorem State.resetRegisters_outen : s.resetRegisters.outen = 0 := rfl
@[simp] theorem State.resetRegisters_ibuf : s.resetRegisters.ibuf = Vector.replicate 16 0 := rfl
@[simp] theorem State.resetRegisters_obuf : s.resetRegisters.obuf = Vector.replicate 5 0 := rfl
@[simp] theorem State.resetRegisters_plans : s.resetRegisters.plans = Vector.replicate 16 PlanRegs.zero := rfl
@[simp] theorem State.resetRegisters_pending : s.resetRegisters.pending = s.pending := rfl
@[simp] theorem State.resetRegisters_rdata : s.resetRegisters.rdata = s.rdata := rfl

end

end Sys2Proof.Machine
end

