-- ==== Sys2Proof/Laws/Ops.lean ====
section
/-! SUPPORT. STATUS words, OUTEN bits and channel registers after the named operations. -/

namespace Sys2Proof.Machine

/-! ### STATUS (10_state.md R23, R24) -/

theorem finish_eq (c : Code) (o n : Bool) (s : State) :
    finish c o n s = { s with status := statusOf c o n } := rfl

theorem raise_eq (c : Code) (s : State) : raise c s = { s with status := statusOf c false false } := rfl

@[simp] theorem statusCode_statusOf (c : Code) (o n : Bool) :
    statusCode (statusOf c o n) = c.value := by
  cases c <;> cases o <;> cases n <;> rfl

@[simp] theorem statusOvf_statusOf (c : Code) (o n : Bool) : statusOvf (statusOf c o n) = o := by
  cases c <;> cases o <;> cases n <;> rfl

@[simp] theorem statusNdig_statusOf (c : Code) (o n : Bool) : statusNdig (statusOf c o n) = n := by
  cases c <;> cases o <;> cases n <;> rfl

theorem statusOf_ok : statusOf .ok false false = 0 := rfl

theorem statusOf_malformedFrame : statusOf .malformedFrame false false = 1 := rfl

theorem statusOf_freqOutOfRange : statusOf .freqOutOfRange false false = 2 := rfl

theorem statusOf_illegalCommand : statusOf .illegalCommand false false = 3 := rfl

/-! ### OUTEN (10_state.md R32) -/

/-- Setting bit ch of OUTEN sets that bit and leaves every other bit. -/
theorem getLsbD_setOuten (s : State) (ch : Channel) (on : Bool) (i : Nat) :
    (s.setOuten ch on).outen.getLsbD i = if i = ch.toNat then on else s.outen.getLsbD i := by
  have hch : ch.toNat < 16 := ch.isLt
  cases on <;> by_cases h : i = ch.toNat
  · subst h
    simp [hch]
  · by_cases hi : i < 16
    · simp [h, hi]
    · simp [h, BitVec.getLsbD_of_ge _ _ (Nat.le_of_not_lt hi)]
  · subst h
    simp [hch]
  · simp [BitVec.getLsbD_twoPow, h, Ne.symm h]

/-! ### The plan registers (10_state.md R35 to R38) -/

@[simp] theorem plan_setPlan_self (s : State) (ch : Channel) (p : PlanRegs) :
    (s.setPlan ch p).plan ch = p := by
  simp [State.plan]

theorem plan_setPlan_of_ne (s : State) {ch ch' : Channel} (p : PlanRegs) (h : ch' ≠ ch) :
    (s.setPlan ch p).plan ch' = s.plan ch' := by
  have : ch.toNat ≠ ch'.toNat := fun e => h (BitVec.eq_of_toNat_eq e.symm)
  simp [State.plan, this]

end Sys2Proof.Machine
end

