-- ==== Sys2Proof/Laws/Registers.lean ====
section
/-! SUPPORT. The address map, and what a store through it can do. -/

namespace Sys2Proof.Machine

/-! ### The address map (20_memory.md R52) -/

theorem regAt_ibuf (c : Config) (i : Fin 16) : regAt c (0x10 + i.val) = some (.ibuf i) := by
  rw [regAt, if_neg (by omega), dif_pos ⟨by omega, by omega⟩]
  simp

theorem regAt_obuf (c : Config) (i : Fin 5) : regAt c (0x20 + i.val) = some (.obuf i) := by
  rw [regAt, if_neg (by omega), dif_neg (by omega), dif_pos ⟨by omega, by omega⟩]
  simp

theorem regAt_planReg (c : Config) (k : Nat) (h : k < 64) (hc : k < 4 * c.nOut) :
    regAt c (0x40 + k) = some (planReg k) := by
  rw [regAt, if_neg (by omega), dif_neg (by omega), dif_neg (by omega), if_pos ⟨by omega, by omega, by omega⟩,
    Nat.add_sub_cancel_left]

/-- The four registers of one channel, by offset. -/
theorem planReg_offset (ch : Channel) :
    planReg (4 * ch.toNat) = .p1 ch ∧ planReg (4 * ch.toNat + 1) = .p2 ch ∧
      planReg (4 * ch.toNat + 2) = .p3 ch ∧ planReg (4 * ch.toNat + 3) = .prdiv ch := by
  have key : ∀ j < 4, (4 * ch.toNat + j) / 4 = ch.toNat ∧ (4 * ch.toNat + j) % 4 = j := by omega
  have h0 := key 0 (by decide)
  have h1 := key 1 (by decide)
  have h2 := key 2 (by decide)
  have h3 := key 3 (by decide)
  simp only [Nat.add_zero] at h0
  simp [planReg, h0, h1, h2, h3]

/-- Every register of the block is found at its address. -/
theorem regAt_addrOf (c : Config) (r : Reg) (h : r.present c = true) : regAt c (addrOf r) = some r := by
  cases r with
  | ibuf i => exact regAt_ibuf c i
  | obuf i => exact regAt_obuf c i
  | p1 ch =>
    have := ch.isLt
    have hc : ch.toNat < c.nOut := by simpa [Reg.present] using h
    exact (regAt_planReg c (4 * ch.toNat) (by omega) (by omega)).trans
      (congrArg some (planReg_offset ch).1)
  | p2 ch =>
    have := ch.isLt
    have hc : ch.toNat < c.nOut := by simpa [Reg.present] using h
    exact (regAt_planReg c (4 * ch.toNat + 1) (by omega) (by omega)).trans
      (congrArg some (planReg_offset ch).2.1)
  | p3 ch =>
    have := ch.isLt
    have hc : ch.toNat < c.nOut := by simpa [Reg.present] using h
    exact (regAt_planReg c (4 * ch.toNat + 2) (by omega) (by omega)).trans
      (congrArg some (planReg_offset ch).2.2.1)
  | prdiv ch =>
    have := ch.isLt
    have hc : ch.toNat < c.nOut := by simpa [Reg.present] using h
    exact (regAt_planReg c (4 * ch.toNat + 3) (by omega) (by omega)).trans
      (congrArg some (planReg_offset ch).2.2.2)
  | _ => rfl

/-- An address in the plan area is channel k div 4's register k mod 4. -/
theorem addrOf_planReg (k : Nat) (h : k < 64) : addrOf (planReg k) = 0x40 + k := by
  have hk : k / 4 % 16 = k / 4 := Nat.mod_eq_of_lt (by omega)
  unfold planReg
  split_ifs <;> simp only [addrOf, BitVec.toNat_ofNat, Nat.reducePow, hk] <;> omega

theorem present_planReg (c : Config) (k : Nat) (h : k < 64) (hc : k < 4 * c.nOut) :
    (planReg k).present c = true := by
  have hk : k / 4 % 16 = k / 4 := Nat.mod_eq_of_lt (by omega)
  unfold planReg
  split_ifs <;> simp only [Reg.present, BitVec.toNat_ofNat, Nat.reducePow, hk, decide_eq_true_eq] <;> omega

theorem addrOf_controlReg {a : Nat} {r : Reg} (h : controlReg a = some r) (c : Config) :
    addrOf r = a ∧ r.present c = true := by
  unfold controlReg at h
  split at h <;> first | (obtain rfl := Option.some.inj h; exact ⟨rfl, rfl⟩) | contradiction

/-- The map answers only registers of the block, each at its own address. -/
theorem addrOf_of_regAt {c : Config} {a : Nat} {r : Reg} (h : regAt c a = some r) :
    addrOf r = a ∧ r.present c = true := by
  unfold regAt at h
  split at h
  · exact addrOf_controlReg h c
  split at h
  · obtain rfl := Option.some.inj h
    exact ⟨by simp only [addrOf]; omega, rfl⟩
  split at h
  · obtain rfl := Option.some.inj h
    exact ⟨by simp only [addrOf]; omega, rfl⟩
  split at h
  · obtain rfl := Option.some.inj h
    exact ⟨by rw [addrOf_planReg _ (by omega)]; omega, present_planReg c _ (by omega) (by omega)⟩
  · contradiction

/-! ### Stores (20_memory.md R54, R55) -/

/-- A store leaves the parameter, STATUS, every result register and the host's side alone, whatever the
register. -/
theorem writeReg_keeps (s : State) (r : Reg) (v : Word) :
    (writeReg s r v).cfg = s.cfg ∧ (writeReg s r v).status = s.status ∧
      (writeReg s r v).band = s.band ∧ (writeReg s r v).outen = s.outen ∧
      (writeReg s r v).obuf = s.obuf ∧ (writeReg s r v).plans = s.plans ∧
      (writeReg s r v).pending = s.pending ∧ (writeReg s r v).rdata = s.rdata := by
  cases r <;> exact ⟨rfl, rfl, rfl, rfl, rfl, rfl, rfl, rfl⟩

theorem poke_keeps (s : State) (a : Nat) (v : Word) :
    (poke s a v).cfg = s.cfg ∧ (poke s a v).status = s.status ∧ (poke s a v).band = s.band ∧
      (poke s a v).outen = s.outen ∧ (poke s a v).obuf = s.obuf ∧ (poke s a v).plans = s.plans ∧
      (poke s a v).pending = s.pending ∧ (poke s a v).rdata = s.rdata := by
  unfold poke
  cases regAt s.cfg a with
  | none => exact ⟨rfl, rfl, rfl, rfl, rfl, rfl, rfl, rfl⟩
  | some r => exact writeReg_keeps s r v

/-- A store through the address map changes only the register at its address (43_control.md R152). -/
theorem poke_other (s : State) (a : Nat) (v : Word) :
    (a ≠ 0x02 → (poke s a v).term = s.term) ∧ (a ≠ 0x03 → (poke s a v).dlen = s.dlen) ∧
      (a ≠ 0x04 → (poke s a v).freq = s.freq) ∧ (a ≠ 0x05 → (poke s a v).vco = s.vco) ∧
      (a ≠ 0x06 → (poke s a v).target = s.target) ∧ (a ≠ 0x07 → (poke s a v).rdiv = s.rdiv) ∧
      ∀ i : Fin 16, a ≠ 0x10 + i.val → (poke s a v).ibuf[i] = s.ibuf[i] := by
  unfold poke
  cases hr : regAt s.cfg a with
  | none => simp
  | some r =>
    obtain ⟨rfl, -⟩ := addrOf_of_regAt hr
    cases r with
    | ibuf j =>
      refine ⟨fun _ => rfl, fun _ => rfl, fun _ => rfl, fun _ => rfl, fun _ => rfl, fun _ => rfl,
        fun i hi => ?_⟩
      have hji : j.val ≠ i.val := by simp only [addrOf] at hi; omega
      change (s.ibuf.set j.val _ j.isLt)[i.val] = s.ibuf[i.val]
      simp [hji]
    | _ => simp [addrOf, writeReg]

/-- Storing to one register leaves every other register's value. -/
theorem readReg_writeReg_of_ne (s : State) {r r' : Reg} (v : Word) (h : r' ≠ r) :
    readReg (writeReg s r v) r' = readReg s r' := by
  cases r with
  | ibuf i =>
    cases r' with
    | ibuf j =>
      have hij : i.val ≠ j.val := fun e => h (congrArg Reg.ibuf (Fin.ext e.symm))
      simp [readReg, writeReg, hij]
    | _ => rfl
  | _ => cases r' <;> first | rfl | exact absurd rfl h

end Sys2Proof.Machine
end

