-- ==== Sys2Proof/Laws/Access.lean ====
section
/-! SUPPORT. What one step can do, said once: the cases of a command, of an access and of a step that answer
a next state. -/

namespace Sys2Proof.Machine

/-! ### Commands -/

/-- DEC, whole: no terminator and MalformedFrame, or the digits before the first one (40_codec.md R101). -/
theorem execDec_cases (s : State) :
    (untilTerm s.term (s.ibuf.toList.take (decodeBound s.dlen)) = none ∧
        execDec s = .next (raise .malformedFrame s)) ∨
      ∃ bs, untilTerm s.term (s.ibuf.toList.take (decodeBound s.dlen)) = some bs ∧
        execDec s = .next (finish .ok (decide (2 ^ 32 ≤ digitSum bs)) (anyNonDigit bs)
          (s.setFreq (BitVec.ofNat 32 (digitSum bs)))) := by
  unfold execDec
  cases untilTerm s.term (s.ibuf.toList.take (decodeBound s.dlen)) with
  | none => exact .inl ⟨rfl, rfl⟩
  | some bs => exact .inr ⟨bs, rfl, rfl⟩

/-- PLAN, whole: no such channel, a plan, or a channel turned off (41_planner.md R121). -/
theorem execPlan_cases (ch : Channel) (s : State) :
    (s.cfg.nOut ≤ ch.toNat ∧ execPlan ch s = .next (raise .illegalCommand s)) ∨
      (ch.toNat < s.cfg.nOut ∧ inRange s.target.toNat = true ∧
        execPlan ch s = .next (finish .ok false false
          ((s.setPlan ch (planFor s.vco.toNat s.target.toNat s.rdiv)).setOuten ch true))) ∨
      (ch.toNat < s.cfg.nOut ∧ inRange s.target.toNat = false ∧
        execPlan ch s = .next (raise .freqOutOfRange (s.setOuten ch false))) := by
  unfold execPlan
  by_cases hc : s.cfg.nOut ≤ ch.toNat
  · exact .inl ⟨hc, if_pos hc⟩
  · rw [if_neg hc]
    by_cases hr : inRange s.target.toNat = true
    · exact .inr (.inl ⟨by omega, hr, if_pos hr⟩)
    · exact .inr (.inr ⟨by omega, by simpa using hr, if_neg hr⟩)

/-- Every command answers a next state (60_exceptions.md R160), and leaves alone what only the host writes
(10_state.md R21, "Written by") and the host's side. -/
theorem exec_keeps (i : Instr) (s : State) :
    ∃ t, exec i s = .next t ∧ t.cfg = s.cfg ∧ t.term = s.term ∧ t.dlen = s.dlen ∧ t.vco = s.vco ∧
      t.target = s.target ∧ t.rdiv = s.rdiv ∧ t.ibuf = s.ibuf ∧ t.pending = s.pending ∧
      t.rdata = s.rdata := by
  cases i with
  | nop => exact ⟨_, rfl, rfl, rfl, rfl, rfl, rfl, rfl, rfl, rfl, rfl⟩
  | dec =>
    obtain ⟨-, h⟩ | ⟨bs, -, h⟩ := execDec_cases s <;>
      exact ⟨_, h, rfl, rfl, rfl, rfl, rfl, rfl, rfl, rfl, rfl⟩
  | enc => exact ⟨_, rfl, rfl, rfl, rfl, rfl, rfl, rfl, rfl, rfl, rfl⟩
  | plan ch =>
    obtain ⟨-, h⟩ | ⟨-, -, h⟩ | ⟨-, -, h⟩ := execPlan_cases ch s <;>
      exact ⟨_, h, rfl, rfl, rfl, rfl, rfl, rfl, rfl, rfl, rfl⟩
  | band => exact ⟨_, rfl, rfl, rfl, rfl, rfl, rfl, rfl, rfl, rfl, rfl⟩
  | illegal w => exact ⟨_, rfl, rfl, rfl, rfl, rfl, rfl, rfl, rfl, rfl, rfl⟩

/-! ### Accesses -/

/-- The check of R50, whole (20_memory.md). -/
theorem checked_cases (a n : Nat) (k : Host.Outcome State Fault Refusal) :
    (n = 4 ∧ a < 256 ∧ checked a n k = k) ∨
      (¬(n = 4 ∧ a < 256) ∧ ∃ r, checked a n k = .refused r) := by
  unfold checked
  by_cases hn : n = 4
  · by_cases ha : 256 ≤ a
    · exact .inr ⟨by omega, .accessAddress a, by rw [if_neg (by simpa using hn), if_pos ha]⟩
    · exact .inl ⟨hn, by omega, by rw [if_neg (by simpa using hn), if_neg ha]⟩
  · exact .inr ⟨by simp [hn], .accessSize n, if_pos hn⟩

/-- What an access that answers a next state did: a read, a command, a store, or a reset. -/
theorem perform_next_cases {x : HostAccess} {s t : State} (h : perform x s = .next t) :
    (∃ a, x = .read a 4 ∧ a < 256 ∧ t = s.setRdata (peek s a)) ∨
      (∃ w, x = .write 0 4 w ∧ exec (decode s.cfg w) s = .next t) ∨
      (∃ a v, x = .write a 4 v ∧ a ≠ 0 ∧ a < 256 ∧ t = poke s a v) ∨
      (x = .reset ∧ t = s.resetRegisters) := by
  cases x with
  | read a n =>
    obtain ⟨rfl, ha, hk⟩ | ⟨-, r, hr⟩ := checked_cases a n (memRead a s)
    · rw [perform, hk, memRead] at h
      exact .inl ⟨a, rfl, ha, (Host.Outcome.next.inj h).symm⟩
    · rw [perform, hr] at h
      contradiction
  | write a n v =>
    obtain ⟨rfl, ha, hk⟩ | ⟨-, r, hr⟩ := checked_cases a n (memWrite a v s)
    · rw [perform, hk, memWrite] at h
      by_cases h0 : a = 0
      · subst h0
        exact .inr (.inl ⟨v, rfl, h⟩)
      · rw [if_neg (show ¬ a = addrOf .cmd from h0)] at h
        exact .inr (.inr (.inl ⟨a, v, rfl, h0, ha, (Host.Outcome.next.inj h).symm⟩))
    · rw [perform, hr] at h
      contradiction
  | reset => exact .inr (.inr (.inr ⟨rfl, (Host.Outcome.next.inj h).symm⟩))

/-- What a step that answers a next state did: nothing was pending, or the first access ran. -/
theorem step_next_cases {s t : State} (h : step s = .next t) :
    (s.pending = [] ∧ t = s) ∨
      ∃ x xs, s.pending = x :: xs ∧ perform x { s with pending := xs } = .next t := by
  unfold step serveNext at h
  split at h
  · exact .inl ⟨‹_›, (Host.Outcome.next.inj h).symm⟩
  · exact .inr ⟨_, _, ‹_›, h⟩

/-- A run moves on by its first step. -/
theorem run_of_step (M : Host.Core) (k : Nat) {s t : M.State} (h : M.step s = .next t) :
    M.run (k + 1) s = M.run k t := by
  simp only [Host.Core.run, h]

/-- A step with an access pending runs that access. -/
theorem step_of_pending {s : State} {x : HostAccess} {xs : List HostAccess}
    (h : s.pending = x :: xs) : step s = perform x { s with pending := xs } := by
  simp only [step, serveNext, h]

end Sys2Proof.Machine
end

