-- ==== Sys2Proof/Laws/PerInstr.lean ====
section
/-! SUPPORT. Statements for all instructions, made per instruction (LAWS.json, "per_instruction"). -/

namespace Sys2Proof.Laws

/-- EncodeLegal: the word of a well-formed instruction is legal, but for `illegal` (30_encoding.md R75). -/
def EncodeLegal.Statement (i : Instr) : Prop :=
  ∀ c : Config, i.wellFormed c = true →
    (legal c (encode i) = true ↔ ∀ w, i ≠ .illegal w)

theorem EncodeLegal.nop : EncodeLegal.Statement .nop := by
  intro c _
  simp [legal, encode]

theorem EncodeLegal.dec : EncodeLegal.Statement .dec := by
  intro c _
  simp [legal, encode]

theorem EncodeLegal.enc : EncodeLegal.Statement .enc := by
  intro c _
  simp [legal, encode]

theorem EncodeLegal.plan (ch : Channel) : EncodeLegal.Statement (.plan ch) := by
  intro c h
  simp only [Instr.wellFormed, decide_eq_true_eq] at h
  simp [legal, encode, h]

theorem EncodeLegal.band : EncodeLegal.Statement .band := by
  intro c _
  simp [legal, encode]

theorem EncodeLegal.illegal (w : Word) : EncodeLegal.Statement (.illegal w) := by
  intro c h
  simp only [Instr.wellFormed, Bool.not_eq_true'] at h
  simp [encode, h]

end Sys2Proof.Laws
end

