-- ==== Sys2Proof/Tests/Slice0.lean ====
section
/-! SUPPORT. Small tests, each on one step, with results from spec/ (95_test_vectors.md, or the worked example
of the rule named), the smoke test of the checks, and for every statement with hypotheses a witness that meets
them. -/

namespace Sys2Proof.Tests

open Sys2Proof.Machine

/-- The command answers a next state with this property. -/
def after (i : Instr) (s : State) (p : State → Bool) : Bool :=
  match exec i s with
  | .next t => p t
  | _ => false

/-- The step answers a next state with this property. -/
def afterStep (s : State) (p : State → Bool) : Bool :=
  match step s with
  | .next t => p t
  | _ => false

/-- Reset with these bytes at the start of IBUF, and this DLEN. -/
def withBytes (bs : List Byte) (dlen : Byte) : State :=
  { State.reset with ibuf := Vector.ofFn (fun i : Fin 16 => bs.getD i.val 0), dlen := dlen }

/-- Reset with VCO, TARGET and RDIV written. -/
def withPlan (vco target : Word) (rdiv : Byte) : State :=
  { State.reset with vco := vco, target := target, rdiv := rdiv }

/-- Reset with these accesses pending. -/
def withPending (xs : List HostAccess) : State := { State.reset with pending := xs }

/-! ### Ill-formed terms are refused by the checks -/

theorem test_plan_of_absent_channel_ill_formed :
    (Instr.plan 3).wellFormed { nOut := 3 } = false ∧ (Instr.plan 2).wellFormed { nOut := 3 } = true := by
  decide

theorem test_illegal_of_legal_word_ill_formed :
    (Instr.illegal 0x23).wellFormed { nOut := 3 } = false ∧
      (Instr.illegal 0x33).wellFormed { nOut := 3 } = true := by
  decide

theorem test_register_of_absent_channel_ill_formed :
    (Reg.p1 3).present { nOut := 3 } = false ∧ (Reg.p2 3).present { nOut := 3 } = false ∧
      (Reg.p3 3).present { nOut := 3 } = false ∧ (Reg.prdiv 3).present { nOut := 3 } = false ∧
      (Reg.prdiv 2).present { nOut := 3 } = true := by
  decide

theorem test_access_of_wrong_size_or_address_ill_formed :
    (HostAccess.read 0 2).wellFormed = false ∧ (HostAccess.read 256 4).wellFormed = false ∧
      (HostAccess.write 0 1 0).wellFormed = false ∧ (HostAccess.write 256 4 0).wellFormed = false ∧
      (HostAccess.read 255 4).wellFormed = true := by
  decide

theorem test_statement_ill_formed :
    (Stmt.ldbuf (List.replicate 17 0)).wellFormed { nOut := 3 } = false ∧
      (Stmt.decode []).wellFormed { nOut := 3 } = false ∧ (Stmt.plan 3).wellFormed { nOut := 3 } = false ∧
      (Stmt.planf 3 0 0 0).wellFormed { nOut := 3 } = false ∧
      (Stmt.wr (.addr 256) 0).wellFormed { nOut := 3 } = false ∧
      (Stmt.rd (.name (.p1 3))).wellFormed { nOut := 3 } = false := by
  decide

theorem test_parameter_out_of_range_invalid :
    ¬ Config.Valid { nOut := 1 } ∧ ¬ Config.Valid { nOut := 17 } ∧ Config.Valid { nOut := 2 } ∧
      Config.Valid { nOut := 16 } := by
  decide

/-! ### Decoding: the words of 30_encoding.md R70, R71 and R79, bit by bit -/

theorem test_decode_nop : decode Config.default 0b00000000000000000000000000000000#32 = .nop := by decide
theorem test_decode_dec : decode Config.default 0b00000000000000000000000000000001#32 = .dec := by decide
theorem test_decode_enc : decode Config.default 0b00000000000000000000000000000010#32 = .enc := by decide
theorem test_decode_plan :
    decode Config.default 0b00000000000000000000000000100011#32 = .plan 2 := by decide
theorem test_decode_band : decode Config.default 0b00000000000000000000000000000100#32 = .band := by decide
theorem test_decode_illegal_opcode :
    decode Config.default 0b00000000000000000000000000001111#32 = .illegal 0xF := by decide

/-- Each defect of a word is refused by its own name (30_encoding.md R76). -/
theorem test_decode_refuses_by_name :
    (match decodeLegal Config.default 0x101 with | .error e => e == .reservedField | _ => false) = true ∧
      (match decodeLegal Config.default 0x5 with | .error e => e == .reservedOpcode | _ => false) = true ∧
      (match decodeLegal Config.default 0x11 with | .error e => e == .channelField | _ => false) = true ∧
      (match decodeLegal Config.default 0x33 with | .error e => e == .noSuchChannel | _ => false) = true := by
  decide

theorem test_encode_plan : encode (.plan 2) = 0x23 ∧ encode .band = 0x4 := by decide

theorem test_decode_table_word :
    decodeTableWord 32 0x13 = some (.plan 1) ∧ decodeTableWord 32 0x4 = some .band ∧
      decodeTableWord 64 0x100000004 = none := by
  decide

/-! ### Commands -/

/-- 95_test_vectors.md K1. -/
theorem test_nop_clears_status : after .nop { State.reset with status := 1 } (·.status == 0) = true := by decide

/-- 95_test_vectors.md K6: DEC with RSV not 0 does not decode. -/
theorem test_illegal_word_sets_status :
    afterStep ({ withBytes [0x21, 0xFD] 6 with status := 1 }.withFetchWord 32 0x101)
      (fun t => t.status == 3 && t.freq == 0) = true := by
  decide

/-- 95_test_vectors.md D11: six digit bytes, reduced mod 2^32, OVF. -/
theorem test_dec_overflow :
    after .dec (withBytes [0x12, 0x34, 0x56, 0x78, 0x90, 0x12, 0xFD] 8)
      (fun t => t.freq == 229544532 && t.status == 0x10) = true := by
  decide

/-- 95_test_vectors.md D8: nibbles above 9 by their binary value, NDIG. -/
theorem test_dec_non_digit :
    after .dec (withBytes [0xFF, 0xFD] 6) (fun t => t.freq == 165 && t.status == 0x20) = true := by
  decide

/-- 95_test_vectors.md N13. -/
theorem test_enc_ten_digits :
    after .enc { State.reset with freq := 1234567890 }
      (fun t => t.obuf == #v[0x90, 0x78, 0x56, 0x34, 0x12] && t.status == 0) = true := by
  decide

/-- 95_test_vectors.md N14: the largest value. -/
theorem test_enc_largest :
    after .enc { State.reset with freq := 4294967295 }
      (fun t => t.obuf == #v[0x95, 0x72, 0x96, 0x94, 0x42]) = true := by
  decide

/-- 95_test_vectors.md L20: seven shifts, RDIV at bit 20. -/
theorem test_plan_top_of_range :
    after (.plan 0) (withPlan 4294967295 109000000 5)
      (fun t => t.plan 0 == { p1 := 5247411, p2 := 537570, p3 := 851562, prdiv := 5 } &&
        t.outen == 1 && t.status == 0) = true := by
  decide

/-- 95_test_vectors.md L16: a negative integer field wraps. -/
theorem test_plan_wraps :
    after (.plan 2) (withPlan 1750000 500000 0)
      (fun t => t.plan 2 == { p1 := 0xFFFFFFC0, p2 := 0, p3 := 500000, prdiv := 0 } && t.outen == 4) = true := by
  decide

/-- 95_test_vectors.md B6 and B7. -/
theorem test_band_at_14_mhz :
    after .band { State.reset with freq := 13999999 } (·.band == 3) = true ∧
      after .band { State.reset with freq := 14000000 } (·.band == 2) = true := by
  decide

/-- 95_test_vectors.md B9 and B10. -/
theorem test_band_at_21_mhz :
    after .band { State.reset with freq := 21000000 } (·.band == 2) = true ∧
      after .band { State.reset with freq := 21000001 } (·.band == 1) = true := by
  decide

/-! ### Host access -/

/-- 95_test_vectors.md H3 and H4. -/
theorem test_write_narrow_and_read_only :
    afterStep (withPending [.write 0x02 4 0x1FC]) (·.term == 0xFC) = true ∧
      afterStep (withPending [.write 0x09 4 7]) (·.outen == 0) = true := by
  decide

/-- 43_control.md R153 (`RD DLEN` after reset is 6) and 95_test_vectors.md H7 (0x4C is unmapped with N_OUT = 3). -/
theorem test_read_register_and_unmapped :
    afterStep (withPending [.read 0x03 4]) (·.rdata == some 6) = true ∧
      afterStep (withPending [.read 0x4C 4]) (·.rdata == some 0) = true := by
  decide

/-- 20_memory.md R50: another size, another address. -/
theorem test_bad_access_refused :
    (match step (withPending [.read 0x03 2]) with | .refused (.accessSize 2) => true | _ => false) = true ∧
      (match step (withPending [.write 256 4 0]) with | .refused (.accessAddress 256) => true | _ => false) =
        true := by
  decide

/-- 30_encoding.md R78, the expansion of DECODE. -/
theorem test_decode_statement :
    expand (.decode [0x21, 0xFD]) =
      [.write 0x10 4 0x21, .write 0x11 4 0xFD, .write 0x03 4 2, .write 0x00 4 1] := by
  decide

/-- 30_encoding.md R78 with the value of 95_test_vectors.md P5 (`WR RDIV, 0x1FF`): the register takes the low bits. -/
theorem test_wide_operand_reaches_the_write :
    expand (.planf 0 1 2 0x1FF) =
        [.write 0x05 4 1, .write 0x06 4 2, .write 0x07 4 0x1FF, .write 0x00 4 3] ∧
      expand (.ldbuf [0x1FD]) = [.write 0x10 4 0x1FD] ∧
      afterStep (withPending [.write 0x07 4 0x1FF]) (·.rdiv == 0xFF) = true := by
  decide

/-! ### Witnesses: a state and operands that meet the hypotheses of each statement -/

theorem witness_DecodeOfEncodeIsTheCommand :
    (Instr.plan 15).wellFormed { nOut := 16 } = true ∧ (Instr.illegal 5).wellFormed { nOut := 3 } = true ∧
      Instr.band.wellFormed { nOut := 3 } = true := by
  decide

theorem witness_LegalWordsExactly :
    State.reset.cfg.Valid ∧ (2 : Channel).toNat < State.reset.cfg.nOut ∧
      legal State.reset.cfg 0x33 = false ∧ legal State.reset.cfg 0x23 = true := by
  decide

theorem witness_StepRunsTheCommandWritten :
    (withPending [.write 0x00 4 3]).pending = .write 0x00 4 3 :: [] := by
  decide

theorem witness_StepServesTheNextAccess :
    ((255 : Nat) < 256 ∧ (withPending [.read 255 4]).pending = .read 255 4 :: []) ∧
      ((0 : Nat) < 256 ∧ (withPending [.write 0 4 1]).pending = .write 0 4 1 :: []) ∧
      (withPending [.reset, .read 1 4]).pending = .reset :: [.read 1 4] := by
  decide

theorem witness_StepRunsThePlacedWord : (4294967295 : Nat) < 2 ^ 32 := by decide

/-- One word for each of the four defects. -/
theorem witness_IllegalWordsRaiseOnly :
    5 ≤ (5#32).toNat % 16 ∧ (0x100#32).toNat / 256 ≠ 0 ∧
      ((0x11#32).toNat / 16 % 16 ≠ 0 ∧ (0x11#32).toNat % 16 ≠ 3) ∧
      ((0x33#32).toNat % 16 = 3 ∧ State.reset.cfg.nOut ≤ (0x33#32).toNat / 16 % 16) := by
  decide

theorem witness_OneCodePerCommand :
    legal State.reset.cfg 0xF = false ∧ decode State.reset.cfg 1 = .dec ∧
      decode State.reset.cfg 0x13 = .plan 1 ∧ decode State.reset.cfg 0 = .nop ∧
      decode State.reset.cfg 2 = .enc ∧ decode State.reset.cfg 4 = .band ∧
      after .dec (withBytes [0xFF, 0xFD] 6) (fun t => statusNdig t.status) = true := by
  decide

/-- The terminator at the last place (95_test_vectors.md D1), and at index 0 (D9); no terminator (D16). -/
theorem witness_DecSumsDigitsBeforeTerminator :
    (let s := withBytes [0, 0, 7, 0x14, 0, 0xFD] 6;
      (5 : Fin 16).val < min s.dlen.toNat 16 ∧ s.ibuf[(5 : Fin 16)] = s.term ∧
        ∀ i : Fin 16, i < 5 → s.ibuf[i] ≠ s.term) ∧
    (let s := withBytes [0xFD] 6;
      (0 : Fin 16).val < min s.dlen.toNat 16 ∧ s.ibuf[(0 : Fin 16)] = s.term ∧
        ∀ i : Fin 16, i < 0 → s.ibuf[i] ≠ s.term) ∧
    (∀ i : Fin 16, i.val < min (withBytes [] 16).dlen.toNat 16 →
      (withBytes [] 16).ibuf[i] ≠ (withBytes [] 16).term) := by
  decide

theorem witness_EncImageIsUnique :
    (∀ i : Fin 5, lo4 (#v[0x95, 0x72, 0x96, 0x94, 0x42][i]) ≤ 9 ∧ hi4 (#v[0x95, 0x72, 0x96, 0x94, 0x42][i]) ≤ 9) ∧
      { State.reset with freq := 4294967295 }.freq.toNat =
        ∑ i : Fin 5, (lo4 (#v[0x95, 0x72, 0x96, 0x94, 0x42][i]) * 10 ^ (2 * i.val) +
          hi4 (#v[0x95, 0x72, 0x96, 0x94, 0x42][i]) * 10 ^ (2 * i.val + 1)) := by
  decide

/-- TERM with a high nibble above 9 (reset's), with a low one, and a digit pair that is no encoded byte. -/
theorem witness_DecodeOfEncodedFrequency :
    6 ≤ State.reset.dlen.toNat ∧ 9 < hi4 State.reset.term ∧
      9 < lo4 { State.reset with term := 0x0A }.term ∧
      after .enc { State.reset with term := 0x33, freq := 14070000 }
        (fun e => decide (∀ i : Fin 5, e.obuf[i] ≠ 0x33)) = true := by
  decide

/-- Both sides of the range, at its ends. -/
theorem witness_PlanRefusesExactlyOutOfRange :
    (0 : Channel).toNat < State.reset.cfg.nOut ∧ (withPlan 0 499999 0).target.toNat < 500000 ∧
      109000000 < (withPlan 0 109000001 0).target.toNat := by
  decide

/-- k = 0 at the lower end and k = 7 at the upper, and a target out of range. -/
theorem witness_PlanComputesDividers :
    (2 : Channel).toNat < State.reset.cfg.nOut ∧
      500000 ≤ (withPlan 875000000 500000 0).target.toNat ∧
      (withPlan 875000000 500000 0).target.toNat / 2 ^ 0 < 2 ^ 20 ∧
      (withPlan 875000000 109000000 0).target.toNat ≤ 109000000 ∧
      (withPlan 875000000 109000000 0).target.toNat / 2 ^ 7 < 2 ^ 20 ∧
      (∀ j < 7, 2 ^ 20 ≤ (withPlan 875000000 109000000 0).target.toNat / 2 ^ j) ∧
      109000000 < (withPlan 875000000 120000000 0).target.toNat := by
  decide

theorem witness_PlanOfAbsentChannelRaises : State.reset.cfg.nOut ≤ (3 : Channel).toNat := by decide

/-- 95_test_vectors.md L2 (no shift), L5 (one), L3 (seven), L21 (b = c). -/
theorem witness_ReductionLoopBounds :
    (reducedRatio 875000000 500000 = (0, 500000) ∧ shiftCount 500000 = 0) ∧
      (reducedRatio 875000000 1048576 = (243808, 524288) ∧ shiftCount 1048576 = 1) ∧
      (reducedRatio 875000000 109000000 = (23437, 851562) ∧ shiftCount 109000000 = 7) ∧
      (reducedRatio 875561794 1048577 = (524288, 524288) ∧ fracPart 524288 524288 = 128) := by
  decide

/-- The largest VCO at both ends of the range. -/
theorem witness_PlannerIntermediatesFit :
    (4294967295#32).toNat / 500000 = 8589 ∧ reducedRatio (4294967295#32).toNat 500000 = (467295, 500000) ∧
      (4294967295#32).toNat / 109000000 = 39 ∧
      reducedRatio (4294967295#32).toNat 109000000 = (343494, 851562) := by
  decide

/-- 95_test_vectors.md L1: a = 62, four shifts, RDIV = 0 and 0 ≤ I < 2^20; L2 has no shift. -/
theorem witness_PlanReconstructsVco :
    (let s := withPlan 875000000 14070000 0;
      (0 : Channel).toNat < s.cfg.nOut ∧ 500000 ≤ s.target.toNat ∧ s.target.toNat ≤ 109000000 ∧
        (62 : Nat) = s.vco.toNat / s.target.toNat ∧
        ((166250, 879375) : Nat × Nat) = reducedRatio s.vco.toNat s.target.toNat ∧
        (24 : Nat) = fracPart 166250 879375 ∧ shiftCount s.target.toNat = 4 ∧ s.rdiv = 0 ∧
        (0 : Int) ≤ 128 * 62 + 24 - 512 ∧ (128 * 62 + 24 - 512 : Int) < 2 ^ 20) ∧
      shiftCount 500000 = 0 := by
  decide

/-- With TARGET = 500 000: a = 4 (95_test_vectors.md L15), a = 8194, a = 8195 with fp < 128, and a negative field
(L16); the values are a and fp. -/
theorem witness_RightDividerIsSeparable :
    (0 : Channel).toNat < State.reset.cfg.nOut ∧
      [((2000000 : Word), 4, 0), (4097499999, 8194, 127), (4097500000, 8195, 0), (1750000, 3, 64)].all
        (fun p => let s := withPlan p.1 500000 7
          decide (500000 ≤ s.target.toNat ∧ s.target.toNat ≤ 109000000 ∧
            p.2.1 = s.vco.toNat / s.target.toNat ∧
            p.2.2 = fracPart (reducedRatio s.vco.toNat s.target.toNat).1
              (reducedRatio s.vco.toNat s.target.toNat).2)) = true ∧
      (128 * ((3 : Nat) : Int) + (64 : Nat) - 512 < 0) := by
  decide

theorem witness_PlanLeavesOtherChannels :
    (0x44 ≠ 0x01 ∧ 0x44 ≠ 0x09 ∧ 0x40 + 4 * (0 : Channel).toNat + 4 ≤ 0x44) ∧
      (0x43 < 0x40 + 4 * (1 : Channel).toNat) ∧ 1 ≠ (0 : Channel).toNat := by
  decide

/-- The least and the largest block, and each unmapped range at its ends. -/
theorem witness_AddressMapAsTabled :
    Config.Valid { nOut := 2 } ∧ Config.Valid { nOut := 16 } ∧ (15 : Channel).toNat < 16 ∧
      (0x0A ≤ 0x0A ∧ 0x0F ≤ 0x0F) ∧ (0x25 ≤ 0x25 ∧ 0x3F ≤ 0x3F) ∧ 0x40 + 4 * 2 ≤ 0x48 := by
  decide

/-- A register of each kind at the ends of its range, and unmapped addresses, read to what 20_memory.md R52 and the
reset values say. -/
theorem witness_ReadAnswersTheRegister :
    State.reset.cfg.Valid ∧ (2 : Fin 16).val < State.reset.cfg.nOut ∧
      [(0x00, (0 : Word)), (0x01, 0), (0x02, 0xFD), (0x03, 6), (0x07, 0), (0x08, 4), (0x09, 0), (0x10, 0),
        (0x1F, 0), (0x20, 0), (0x24, 0), (0x40, 0), (0x4B, 0), (0x0A, 0), (0x25, 0), (0x4C, 0),
        (0xFF, 0)].all (fun p => peek State.reset p.1 == p.2) = true := by
  decide

/-- Each register kind, IBUF at both ends, stores and reads back. -/
theorem witness_ReadAfterWrite :
    [((0x02 : Nat), (8 : Nat)), (0x03, 8), (0x04, 32), (0x05, 32), (0x06, 32), (0x07, 8), (0x10, 8),
      (0x1F, 8)].all (fun p => (peek (poke State.reset p.1 0x1234FFEE) p.1).toNat ==
        0x1234FFEE % 2 ^ p.2) = true := by
  decide

theorem witness_ReadOnlyRegistersIgnoreWrites :
    State.reset.cfg.Valid ∧
      [0x01, 0x08, 0x09, 0x20, 0x24, 0x40, 0x4B].all (fun a =>
        a == 0x01 || a == 0x08 || a == 0x09 || decide (0x20 ≤ a ∧ a ≤ 0x24) ||
          decide (0x40 ≤ a ∧ a < 0x40 + 4 * State.reset.cfg.nOut)) = true := by
  decide

theorem witness_UnmappedAddressesAreInert :
    State.reset.cfg.Valid ∧
      [0x0A, 0x0F, 0x25, 0x3F, 0x4C, 0xFF].all (fun a =>
        (decide (0x0A ≤ a ∧ a ≤ 0x0F) || decide (0x25 ≤ a ∧ a ≤ 0x3F) ||
          decide (0x40 + 4 * State.reset.cfg.nOut ≤ a))) = true := by
  decide

theorem witness_ReadsRepeat :
    (withPending [.read 0x01 4, .read 0x01 4]).pending = .read 0x01 4 :: .read 0x01 4 :: [] := by
  decide

/-- Each clause at a boundary, and size and address both wrong, where the size is named (log 6). -/
theorem witness_AccessRunsOrIsRefused :
    ((4 : Nat) = 4 ∧ (255 : Nat) < 256) ∧ (2 : Nat) ≠ 4 ∧ ((4 : Nat) = 4 ∧ 256 ≤ 256) ∧
      ((2 : Nat) ≠ 4 ∧ ¬ (256 : Nat) < 256 ∧
        (match perform (.read 256 2) State.reset, perform (.write 256 2 0) State.reset with
          | .refused (.accessSize 2), .refused (.accessSize 2) => true
          | _, _ => false) = true) := by
  decide

theorem witness_IdleBlockHoldsItsState : State.reset.pending = [] := rfl

theorem witness_ProgramsRunToTheirEnd :
    PendingGood (withPending [.write 0 4 1, .write 0 4 0xF, .reset, .read 1 4]) := by
  decide

theorem witness_ResetHasTheInvariant : Config.Valid { nOut := 16 } := by decide

/-- A state that holds a plan on an enabled channel meets the invariant, and steps. -/
theorem witness_StepKeepsTheInvariant :
    Inv { withPlan 875000000 14070000 3 with
        outen := 2, status := 0x30, plans := State.reset.plans.set 1 (planFor 875000000 14070000 3),
        pending := [.write 0 4 3] } ∧
      ∃ t, step { withPlan 875000000 14070000 3 with
        outen := 2, status := 0x30, plans := State.reset.plans.set 1 (planFor 875000000 14070000 3),
        pending := [.write 0 4 3] } = .next t :=
  ⟨by decide, _, rfl⟩

/-- For each register a step by one of its writers that changes it. -/
theorem witness_RegistersChangeOnlyByTheirWriters :
    afterStep (withPending [.write 0 4 0xF]) (·.status != State.reset.status) = true ∧
      afterStep (withPending [.write 2 4 1]) (·.term != State.reset.term) = true ∧
      afterStep (withPending [.write 3 4 1]) (·.dlen != State.reset.dlen) = true ∧
      afterStep (withPending [.write 4 4 1]) (·.freq != State.reset.freq) = true ∧
      afterStep { withBytes [0x21, 0xFD] 6 with pending := [.write 0 4 1] }
        (·.freq != State.reset.freq) = true ∧
      afterStep (withPending [.write 5 4 1]) (·.vco != State.reset.vco) = true ∧
      afterStep (withPending [.write 6 4 1]) (·.target != State.reset.target) = true ∧
      afterStep (withPending [.write 7 4 1]) (·.rdiv != State.reset.rdiv) = true ∧
      afterStep { withPending [.write 0 4 4] with freq := 30000000 } (·.band != State.reset.band) = true ∧
      afterStep { withPending [.write 0 4 2] with freq := 1 } (·.obuf != State.reset.obuf) = true ∧
      afterStep (withPending [.write 0x1F 4 1]) (fun t => t.ibuf[15] != State.reset.ibuf[15]) = true ∧
      afterStep { withPlan 875000000 14070000 0 with pending := [.write 0 4 0x23] }
        (fun t => t.plan 2 != State.reset.plan 2 && t.outen.getLsbD 2) = true := by
  decide

theorem witness_StepKeepsTheParameter :
    afterStep (withPending [.read 3 4]) (fun t => t.rdata != State.reset.rdata) = true := by
  decide

/-- For each command two states that agree in what it reads and differ elsewhere, and runs that meet the premises on
STATUS. -/
theorem witness_CommandsReadOnlyTheirOperands :
    (let s := withPlan 875000000 14070000 3
      let t := { withBytes [0x21, 0xFD] 9 with cfg := { nOut := 16 }, status := 3, term := 1, freq := 7 }
      SameReads .nop s t ∧ SameReads (.illegal 0xF) s t ∧
        SameReads .dec s { t with term := s.term, dlen := s.dlen, ibuf := s.ibuf } ∧
        SameReads .enc s { t with freq := s.freq } ∧ SameReads .band s { t with freq := s.freq } ∧
        SameReads (.plan 2) s { t with cfg := s.cfg, vco := s.vco, target := s.target, rdiv := s.rdiv } ∧
        (2 : Channel).toNat < s.cfg.nOut ∧ after (.plan 2) s (·.status == 0) = true ∧
        after .dec t (fun u => statusCode u.status == 1) = true) ∧
      after .dec (withBytes [0x21, 0xFD] 9) (fun u => statusCode u.status == 0) = true ∧
      SameOperands State.reset
        { State.reset with
          status := 3, band := 1, outen := 7, obuf := Vector.replicate 5 0x99,
          plans := Vector.replicate 16 { p1 := 1, p2 := 2, p3 := 3, prdiv := 4 } } := by
  decide

theorem witness_StatementsExpandToHostOperations :
    Config.Valid { nOut := 3 } ∧ (Stmt.decode (List.replicate 16 0)).wellFormed { nOut := 3 } = true ∧
      (Stmt.wr (.name (.ibuf 15)) 7).wellFormed { nOut := 3 } = true ∧
      (Stmt.rd (.addr 255)).wellFormed { nOut := 3 } = true := by
  decide

end Sys2Proof.Tests
end

section
/-! PROOFS. STATUS is an output of the commands and no operand of any (10_state.md R41). -/

namespace Sys2Proof.Machine

/-! ### STATUS is rewritten, not read -/

/-- The named operations a command ends with do not see the STATUS it started from. -/
theorem finish_setStatus (c : Code) (o n : Bool) (s : State) (st : BitVec 6) :
    finish c o n (s.setStatus st) = finish c o n s := rfl

theorem raise_setStatus (c : Code) (s : State) (st : BitVec 6) :
    raise c (s.setStatus st) = raise c s := finish_setStatus c false false s st

/-- A result register is written the same before and after STATUS. -/
theorem setFreq_setStatus (s : State) (v : Word) (st : BitVec 6) :
    (s.setStatus st).setFreq v = (s.setFreq v).setStatus st := rfl

theorem setObuf_setStatus (s : State) (v : Vector Byte 5) (st : BitVec 6) :
    (s.setStatus st).setObuf v = (s.setObuf v).setStatus st := rfl

theorem setBand_setStatus (s : State) (v : BitVec 3) (st : BitVec 6) :
    (s.setStatus st).setBand v = (s.setBand v).setStatus st := rfl

theorem setOuten_setStatus (s : State) (ch : Channel) (on : Bool) (st : BitVec 6) :
    (s.setStatus st).setOuten ch on = (s.setOuten ch on).setStatus st := rfl

theorem setPlan_setStatus (s : State) (ch : Channel) (p : PlanRegs) (st : BitVec 6) :
    (s.setStatus st).setPlan ch p = (s.setPlan ch p).setStatus st := rfl

/-- A command's outcome is the same from every STATUS: each branch reads other registers only, and ends in a
`finish` or `raise` that forgets the old STATUS (10_state.md R41). -/
theorem exec_setStatus (i : Instr) (s : State) (st : BitVec 6) :
    exec i (s.setStatus st) = exec i s := by
  cases i with
  | nop => simp only [exec, execNop, finish_setStatus]
  | dec =>
    simp only [exec, execDec, State.setStatus_term, State.setStatus_ibuf, State.setStatus_dlen,
      setFreq_setStatus, finish_setStatus, raise_setStatus]
  | enc => simp only [exec, execEnc, State.setStatus_freq, setObuf_setStatus, finish_setStatus]
  | plan ch =>
    simp only [exec, execPlan, State.setStatus_cfg, State.setStatus_target, State.setStatus_vco,
      State.setStatus_rdiv, setPlan_setStatus, setOuten_setStatus, finish_setStatus, raise_setStatus]
  | band => simp only [exec, execBand, State.setStatus_freq, setBand_setStatus, finish_setStatus]
  | illegal w => simp only [exec, execIllegal, raise_setStatus]

/-! ### The STATUS a command leaves -/

/-- Every command leaves a STATUS of its own making; only a DEC that completes can set OVF or NDIG in it
(10_state.md R41, 60_exceptions.md R165). -/
theorem exec_status (i : Instr) (s : State) :
    ∃ t c ovf ndig, exec i s = .next t ∧ t.status = statusOf c ovf ndig ∧
      (ovf = true ∨ ndig = true → i = .dec ∧ c = .ok) := by
  cases i with
  | nop => exact ⟨_, .ok, false, false, rfl, rfl, by simp⟩
  | dec =>
    obtain ⟨-, h⟩ | ⟨bs, -, h⟩ := execDec_cases s
    · exact ⟨_, .malformedFrame, false, false, h, rfl, by simp⟩
    · exact ⟨_, .ok, _, _, h, rfl, fun _ => ⟨rfl, rfl⟩⟩
  | enc => exact ⟨_, .ok, false, false, rfl, rfl, by simp⟩
  | plan ch =>
    obtain ⟨-, h⟩ | ⟨-, -, h⟩ | ⟨-, -, h⟩ := execPlan_cases ch s
    · exact ⟨_, .illegalCommand, false, false, h, rfl, by simp⟩
    · exact ⟨_, .ok, false, false, h, rfl, by simp⟩
    · exact ⟨_, .freqOutOfRange, false, false, h, rfl, by simp⟩
  | band => exact ⟨_, .ok, false, false, rfl, rfl, by simp⟩
  | illegal w => exact ⟨_, .illegalCommand, false, false, rfl, rfl, by simp⟩

/-- Settles O44: the next state is that of `exec_status`, and `exec_setStatus` reaches the same one from any
other STATUS. -/
theorem commandsIgnoreStatus : Obligations.CommandsIgnoreStatus := by
  intro i s st
  obtain ⟨t, c, ovf, ndig, hexec, hstatus, hflags⟩ := exec_status i s
  refine ⟨t, hexec, (exec_setStatus i s st).trans hexec, ?_⟩
  rw [hstatus, statusOvf_statusOf, statusNdig_statusOf, statusCode_statusOf]
  intro hset
  obtain ⟨hdec, rfl⟩ := hflags hset
  exact ⟨hdec, rfl⟩

end Sys2Proof.Machine
end


section
/-! PROOFS. The address map, and the accesses that change no register (20_memory.md R52, R53, R55). -/

namespace Sys2Proof.Machine

/-! ### Unmapped addresses -/

/-- No register of the block has its address in an unmapped range: the control registers end at 0x09, OBUF at
0x24, and the plan registers at the last existing channel (10_state.md R21). -/
theorem addrOf_not_unmapped {c : Config} {r : Reg} (h : r.present c = true) :
    ¬((0x0A ≤ addrOf r ∧ addrOf r ≤ 0x0F) ∨ (0x25 ≤ addrOf r ∧ addrOf r ≤ 0x3F) ∨
      0x40 + 4 * c.nOut ≤ addrOf r) := by
  cases r with
  | p1 ch | p2 ch | p3 ch | prdiv ch =>
    have hch : ch.toNat < c.nOut := of_decide_eq_true h
    simp only [addrOf]
    omega
  | _ =>
    simp only [addrOf]
    omega

/-- An unmapped address names no register, since a named one would stand at that address (20_memory.md R52). -/
theorem regAt_unmapped {c : Config} {a : Nat}
    (ha : (0x0A ≤ a ∧ a ≤ 0x0F) ∨ (0x25 ≤ a ∧ a ≤ 0x3F) ∨ 0x40 + 4 * c.nOut ≤ a) : regAt c a = none := by
  cases hr : regAt c a with
  | none => rfl
  | some r =>
    obtain ⟨rfl, hpresent⟩ := addrOf_of_regAt hr
    exact absurd ha (addrOf_not_unmapped hpresent)

theorem peek_of_regAt_none {s : State} {a : Nat} (h : regAt s.cfg a = none) : peek s a = 0 := by
  simp only [peek, h]

/-! ### Accesses that change no register -/

/-- A store outside the read-write registers 0x02 to 0x07 and 0x10 to 0x1F stores nothing, whether its address
names a read-only register or none (20_memory.md R53, R55). -/
theorem poke_outside_readWrite (s : State) {a : Nat} (v : Word)
    (ha : a ≤ 0x01 ∨ (0x08 ≤ a ∧ a ≤ 0x0F) ∨ 0x20 ≤ a) : poke s a v = s := by
  unfold poke
  cases hr : regAt s.cfg a with
  | none => rfl
  | some r =>
    obtain ⟨rfl, -⟩ := addrOf_of_regAt hr
    cases r with
    | term | dlen | freq | vco | target | rdiv | ibuf i =>
      simp only [addrOf] at ha
      omega
    | _ => rfl

/-- MemWrite away from CMD and from the read-write registers has no effect (43_control.md R152). -/
theorem memWrite_outside_readWrite (s : State) {a : Nat} (v : Word)
    (ha : a = 0x01 ∨ (0x08 ≤ a ∧ a ≤ 0x0F) ∨ 0x20 ≤ a) : memWrite a v s = .next s := by
  have hcmd : a ≠ addrOf .cmd := by simp only [addrOf]; omega
  rw [memWrite, if_neg hcmd, poke_outside_readWrite s v (by omega)]

/-- MemRead changes no register: the next state differs in the value given to the host at most (43_control.md
R153). -/
theorem memRead_frame (a : Nat) (s : State) :
    ∃ t : State, memRead a s = .next t ∧ t = { s with rdata := t.rdata } :=
  ⟨s.setRdata (peek s a), rfl, rfl⟩

/-! ### The statements -/

/-- Settles O28: a register that is present is found at its address (`regAt_addrOf`), and an unmapped address
names none (`regAt_unmapped`). -/
theorem addressMapAsTabled : Obligations.AddressMapAsTabled := by
  intro c _
  refine ⟨rfl, regAt_ibuf c, regAt_obuf c, fun ch hch => ?_, fun a => regAt_unmapped⟩
  have hpresent : decide (ch.toNat < c.nOut) = true := decide_eq_true hch
  exact ⟨regAt_addrOf c (.p1 ch) hpresent, regAt_addrOf c (.p2 ch) hpresent,
    regAt_addrOf c (.p3 ch) hpresent, regAt_addrOf c (.prdiv ch) hpresent⟩

/-- Settles O32: every read-only address lies outside the read-write registers, and a read changes no
register. -/
theorem readOnlyRegistersIgnoreWrites : Obligations.ReadOnlyRegistersIgnoreWrites := by
  intro s a v _
  exact ⟨fun ha => memWrite_outside_readWrite s v (by omega), rfl, memRead_frame 0x00 s⟩

/-- Settles O33: an unmapped address names no register, so it reads 0, and it lies outside the read-write
registers, so a write to it has no effect. -/
theorem unmappedAddressesAreInert : Obligations.UnmappedAddressesAreInert := by
  intro s a v _ ha
  exact ⟨peek_of_regAt_none (regAt_unmapped ha), memWrite_outside_readWrite s v (by omega), memRead_frame a s⟩

end Sys2Proof.Machine
end

section
/-! PROOFS. The legal command words (30_encoding.md R75): their fields, their commands and their number. -/

namespace Sys2Proof

/-! ### Words and commands -/

/-- The fields of a command word, put together by shift and or (30_encoding.md R70). -/
theorem commandWord_eq_or (ch : Channel) (op : BitVec 4) :
    commandWord ch op = op.setWidth 32 ||| ch.setWidth 32 <<< 4 := by
  apply BitVec.eq_of_toNat_eq
  have hop : op.toNat < 2 ^ 4 := op.isLt
  have hor : ch.toNat * 16 + op.toNat = op.toNat ||| ch.toNat <<< 4 := by
    rw [Nat.or_comm, ← Nat.shiftLeft_add_eq_or_of_lt hop, Nat.shiftLeft_eq]
  have hop32 : op.toNat % 2 ^ 32 = op.toNat := by omega
  have hch32 : (ch.toNat % 2 ^ 32) <<< 4 % 2 ^ 32 = ch.toNat <<< 4 := by
    simp only [Nat.shiftLeft_eq]
    omega
  rw [commandWord_toNat, hor, BitVec.toNat_or, BitVec.toNat_shiftLeft, BitVec.toNat_setWidth,
    BitVec.toNat_setWidth, hop32, hch32]

theorem encode_plan (ch : Channel) : encode (.plan ch) = 3#32 ||| ch.setWidth 32 <<< 4 :=
  commandWord_eq_or ch 3

/-- Decoding undoes encoding on the commands of a block. -/
theorem decode_encode {c : Config} {i : Instr} (h : i.wellFormed c = true) : decode c (encode i) = i := by
  cases i with
  | plan ch =>
    simp only [Instr.wellFormed, decide_eq_true_eq] at h
    simp [encode, decode, decodeLegal, h]
  | illegal w =>
    simp only [Instr.wellFormed, Bool.not_eq_true'] at h
    exact (decode_eq_illegal_iff c w).mpr h
  | nop | dec | enc | band => simp [encode, decode, decodeLegal, withoutChannel]

/-- `Laws.EncodeLegal` for the whole command set. -/
theorem legal_encode_iff {c : Config} {i : Instr} (h : i.wellFormed c = true) :
    legal c (encode i) = true ↔ ∀ u, i ≠ .illegal u := by
  cases i with
  | nop => exact Laws.EncodeLegal.nop c h
  | dec => exact Laws.EncodeLegal.dec c h
  | enc => exact Laws.EncodeLegal.enc c h
  | plan ch => exact Laws.EncodeLegal.plan ch c h
  | band => exact Laws.EncodeLegal.band c h
  | illegal w => exact Laws.EncodeLegal.illegal w c h

/-- The legal words are the words of the block's commands other than `illegal`. -/
theorem legal_iff_exists_encode (c : Config) (w : Word) :
    legal c w = true ↔ ∃ i : Instr, (i.wellFormed c = true ∧ ∀ u, i ≠ .illegal u) ∧ encode i = w := by
  constructor
  · intro hlegal
    obtain ⟨i, -, hw, -, hwf, hne⟩ | ⟨e, -, hnot⟩ := decodeLegal_cases c w
    · exact ⟨i, ⟨hwf, hne⟩, hw⟩
    · simp [hlegal] at hnot
  · rintro ⟨i, ⟨hwf, hne⟩, rfl⟩
    exact (legal_encode_iff hwf).mpr hne

/-- legal(w) by the arithmetic of the fields OP, CH and RSV of w (30_encoding.md R70, R75). -/
theorem legal_iff_fields (c : Config) (w : Word) :
    legal c w = true ↔ w.toNat / 256 = 0 ∧
      ((w.toNat % 16 ∈ [0, 1, 2, 4] ∧ w.toNat / 16 % 16 = 0) ∨
        (w.toNat % 16 = 3 ∧ w.toNat / 16 % 16 < c.nOut)) := by
  simp [legal, ← BitVec.toNat_inj, opField_toNat, chField_toNat, rsvField_toNat, or_assoc]

/-! ### The list of the legal commands -/

/-- The commands of a block other than `illegal`: the four without a channel, and PLAN of each channel that
exists (30_encoding.md R75). `mem_legalCommands` ties it to `Instr.wellFormed`. -/
def legalCommands (c : Config) : List Instr :=
  [.nop, .dec, .enc, .band] ++ (List.range c.nOut).map fun k => .plan (BitVec.ofNat 4 k)

theorem plan_mem_legalCommands (c : Config) (ch : Channel) :
    .plan ch ∈ legalCommands c ↔ ch.toNat < c.nOut := by
  simp only [legalCommands, List.mem_append, List.mem_map, List.mem_range]
  constructor
  · rintro (h | ⟨k, hk, hch⟩)
    · simp at h
    · rw [Instr.plan.injEq] at hch
      rw [← hch, BitVec.toNat_ofNat]
      exact (Nat.mod_le k _).trans_lt hk
  · intro h
    exact .inr ⟨ch.toNat, h, by simp⟩

theorem mem_legalCommands (c : Config) (i : Instr) :
    i ∈ legalCommands c ↔ i.wellFormed c = true ∧ ∀ u, i ≠ .illegal u := by
  cases i with
  | plan ch => simp [plan_mem_legalCommands, Instr.wellFormed]
  | nop | dec | enc | band | illegal w => simp [legalCommands, Instr.wellFormed]

theorem length_legalCommands (c : Config) : (legalCommands c).length = 4 + c.nOut := by
  simp only [legalCommands, List.length_append, List.length_map, List.length_range, List.length_cons,
    List.length_nil]

/-- No command is listed twice: the channel numbers below N_OUT ≤ 16 stay apart in the four bits of CH. -/
theorem nodup_legalCommands {c : Config} (h : c.nOut ≤ 16) : (legalCommands c).Nodup := by
  have hplans : ((List.range c.nOut).map fun k => Instr.plan (BitVec.ofNat 4 k)).Nodup := by
    refine List.Nodup.map_on (fun j hj k hk hjk => ?_) List.nodup_range
    rw [List.mem_range] at hj hk
    rw [Instr.plan.injEq, ← BitVec.toNat_inj, BitVec.toNat_ofNat, BitVec.toNat_ofNat] at hjk
    omega
  refine List.nodup_append'.mpr ⟨by decide, hplans, ?_⟩
  simp [List.disjoint_left]

/-! ### The list of the legal words -/

/-- The words of the legal commands. -/
def legalWords (c : Config) : List Word := (legalCommands c).map encode

theorem mem_legalWords (c : Config) (w : Word) : w ∈ legalWords c ↔ legal c w = true := by
  simp only [legalWords, List.mem_map, mem_legalCommands, legal_iff_exists_encode]

/-- The legal words are distinct, because the decoder tells their commands apart. -/
theorem nodup_legalWords {c : Config} (h : c.nOut ≤ 16) : (legalWords c).Nodup := by
  refine List.Nodup.map_on (fun i hi j hj hij => ?_) (nodup_legalCommands h)
  have hdi := decode_encode ((mem_legalCommands c i).mp hi).1
  have hdj := decode_encode ((mem_legalCommands c j).mp hj).1
  rw [← hdi, hij, hdj]

/-- Every legal word is one of those that 30_encoding.md R75 lists. -/
theorem listed_of_legal {c : Config} {w : Word} (h : legal c w = true) :
    w = 0 ∨ w = 1 ∨ w = 2 ∨ w = 4 ∨
      ∃ ch : Channel, ch.toNat < c.nOut ∧ w = 3#32 ||| ch.setWidth 32 <<< 4 := by
  obtain ⟨i, ⟨hwf, hne⟩, rfl⟩ := (legal_iff_exists_encode c w).mp h
  cases i with
  | nop => exact .inl rfl
  | dec => exact .inr (.inl rfl)
  | enc => exact .inr (.inr (.inl rfl))
  | band => exact .inr (.inr (.inr (.inl rfl)))
  | plan ch => exact .inr (.inr (.inr (.inr ⟨ch, of_decide_eq_true hwf, encode_plan ch⟩)))
  | illegal u => exact absurd rfl (hne u)

end Sys2Proof

namespace Sys2Proof.Machine

/-! ### What a command word runs -/

/-- The word of a command of this block runs that command (30_encoding.md R75). -/
theorem runCommand_encode (s : State) {i : Instr} (h : i.wellFormed s.cfg = true) :
    runCommand (encode i) s = exec i s := by
  rw [runCommand, decode_encode h]

/-- A word that is not legal only raises IllegalCommand (43_control.md R151). -/
theorem runCommand_of_not_legal (s : State) {w : Word} (h : legal s.cfg w = false) :
    runCommand w s = .next { s with status := 3 } := by
  rw [runCommand, (decode_eq_illegal_iff s.cfg w).mpr h]
  rfl

/-- Settles O4: legality by the fields (`legal_iff_fields`), the command of each legal word by decoding its own
encoding (`runCommand_encode`), and the 4 + N_OUT words as the list `legalWords`. -/
theorem legalWordsExactly : Obligations.LegalWordsExactly := by
  intro s ⟨_, hmax⟩
  refine ⟨legal_iff_fields s.cfg, runCommand_encode s (i := .nop) rfl, runCommand_encode s (i := .dec) rfl,
    runCommand_encode s (i := .enc) rfl, fun ch hch => ?_, runCommand_encode s (i := .band) rfl,
    fun w => runCommand_of_not_legal s, legalWords s.cfg, nodup_legalWords hmax, ?_, fun w => ?_⟩
  · rw [← encode_plan]
    exact runCommand_encode s (decide_eq_true hch)
  · rw [legalWords, List.length_map, length_legalCommands]
  · rw [mem_legalWords]
    exact ⟨fun h => ⟨h, listed_of_legal h⟩, fun ⟨h, _⟩ => h⟩

end Sys2Proof.Machine
end

section
/-! PROOFS. What DEC and ENC compute (40_codec.md R100 to R102): the bytes before the first terminator and
their digit sum over the places of IBUF, and the bytes of OBUF. -/

namespace Sys2Proof.Machine

/-! ### The first bytes of a buffer -/

theorem mem_toList_take_iff {n : Nat} (v : Vector Byte n) (k : Nat) (b : Byte) :
    b ∈ v.toList.take k ↔ ∃ i : Fin n, i.val < k ∧ v[i] = b := by
  simp only [List.mem_take_iff_getElem, Vector.getElem_toList, Vector.length_toList, Nat.lt_min]
  constructor
  · rintro ⟨i, ⟨hk, hn⟩, hb⟩
    exact ⟨⟨i, hn⟩, hk, hb⟩
  · rintro ⟨i, hk, hb⟩
    exact ⟨i, ⟨hk, i.isLt⟩, hb⟩

/-- The search in the first k bytes fails when the terminator stands at none of their places. -/
theorem untilTerm_take_eq_none {n k : Nat} {v : Vector Byte n} {term : Byte}
    (h : ∀ i : Fin n, i.val < k → v[i] ≠ term) : untilTerm term (v.toList.take k) = none := by
  rw [untilTerm_eq_none_iff]
  intro b hb
  obtain ⟨i, hik, rfl⟩ := (mem_toList_take_iff v k b).mp hb
  exact h i hik

/-- The search in the first k bytes answers the bytes before the first place of the terminator. -/
theorem untilTerm_take_of_first {n k : Nat} {v : Vector Byte n} {term : Byte} {t : Fin n} (htk : t.val < k)
    (hterm : v[t] = term) (hfirst : ∀ i : Fin n, i < t → v[i] ≠ term) :
    untilTerm term (v.toList.take k) = some (v.toList.take t) := by
  rw [untilTerm_eq_some_iff]
  have hlen : t.val < (v.toList.take k).length := by simp [htk]
  have hget : (v.toList.take k)[t.val] = term := by simpa using hterm
  refine ⟨(v.toList.take k).drop (t + 1), ?_, fun b hb => ?_⟩
  · calc v.toList.take k
        = (v.toList.take k).take t ++ (v.toList.take k).drop t := (List.take_append_drop _ _).symm
      _ = v.toList.take t ++ term :: (v.toList.take k).drop (t + 1) := by
          rw [List.take_take, Nat.min_eq_left htk.le, List.drop_eq_getElem_cons hlen, hget]
  · obtain ⟨i, hit, rfl⟩ := (mem_toList_take_iff v t b).mp hb
    exact hfirst i hit

/-! ### The digits before a place of a buffer -/

theorem sum_lt_eq_sum_range {n : Nat} (t : Fin n) (f : Nat → Nat) :
    (∑ i : Fin n, if i < t then f i.val else 0) = ∑ i ∈ Finset.range t, f i := by
  have hfilter : (Finset.range n).filter (· < t.val) = Finset.range t := by
    ext i
    simp only [Finset.mem_filter, Finset.mem_range]
    omega
  calc (∑ i : Fin n, if i < t then f i.val else 0)
      = ∑ i ∈ Finset.range n, if i < t.val then f i else 0 :=
        Fin.sum_univ_eq_sum_range (fun i => if i < t.val then f i else 0) n
    _ = ∑ i ∈ Finset.range t, f i := by rw [← Finset.sum_filter, hfilter]

/-- The digit sum of 40_codec.md R100 over the places of a buffer before t. -/
theorem digitSum_take {n : Nat} (v : Vector Byte n) (t : Fin n) :
    digitSum (v.toList.take t) = ∑ i : Fin n,
      if i < t then lo4 v[i] * 10 ^ (2 * i.val) + hi4 v[i] * 10 ^ (2 * i.val + 1) else 0 := by
  have hlen : (v.toList.take t).length = t := by simp
  rw [digitSum, digitSumFrom_eq_sum, hlen, ← sum_lt_eq_sum_range t]
  refine Finset.sum_congr rfl fun i _ => ite_congr rfl (fun hit => ?_) fun _ => rfl
  have hbyte : (v.toList.take t).getD i 0 = v[i] := by simp [hit]
  rw [hbyte, Nat.zero_add]

/-- NDIG's condition over the places of a buffer before t (40_codec.md R101). -/
theorem anyNonDigit_take_iff {n : Nat} (v : Vector Byte n) (t : Fin n) :
    anyNonDigit (v.toList.take t) = true ↔ ∃ i : Fin n, i < t ∧ (9 < lo4 v[i] ∨ 9 < hi4 v[i]) := by
  simp only [anyNonDigit_iff, mem_toList_take_iff, Fin.lt_def]
  constructor
  · rintro ⟨_, ⟨i, hit, rfl⟩, hnibble⟩
    exact ⟨i, hit, hnibble⟩
  · rintro ⟨i, hit, hnibble⟩
    exact ⟨_, ⟨i, hit, rfl⟩, hnibble⟩

/-! ### DEC -/

/-- STATUS after a DEC that completes: OVF is bit 4 and NDIG bit 5 (10_state.md R23). -/
theorem statusOf_completed (ovf ndig : Bool) :
    statusOf .ok ovf ndig = (if ovf then 0x10#6 else 0#6) ||| (if ndig then 0x20#6 else 0#6) := by
  cases ovf <;> cases ndig <;> rfl

/-- DEC without a terminator within the bound (40_codec.md R101, 60_exceptions.md R162). -/
theorem execDec_of_no_term {s : State}
    (h : ∀ i : Fin 16, i.val < min s.dlen.toNat 16 → s.ibuf[i] ≠ s.term) :
    execDec s = .next { s with status := 1 } := by
  obtain ⟨-, hexec⟩ | ⟨bs, hsome, -⟩ := execDec_cases s
  · exact hexec
  · have hnone := untilTerm_take_eq_none h
    exact absurd (hnone.symm.trans hsome) nofun

/-- DEC with its first terminator at index t (40_codec.md R101). -/
theorem execDec_of_first_term {s : State} {t : Fin 16} (ht : t.val < min s.dlen.toNat 16)
    (hterm : s.ibuf[t] = s.term) (hfirst : ∀ i : Fin 16, i < t → s.ibuf[i] ≠ s.term) :
    execDec s = .next
      { s with
        freq := BitVec.ofNat 32 (digitSum (s.ibuf.toList.take t))
        status := statusOf .ok (decide (2 ^ 32 ≤ digitSum (s.ibuf.toList.take t)))
          (anyNonDigit (s.ibuf.toList.take t)) } := by
  have hfound := untilTerm_take_of_first ht hterm hfirst
  obtain ⟨hnone, -⟩ | ⟨bs, hsome, hexec⟩ := execDec_cases s
  · exact absurd (hnone.symm.trans hfound) nofun
  · obtain rfl := Option.some.inj (hsome.symm.trans hfound)
    exact hexec

/-- Settles O13: without a terminator by `execDec_of_no_term`; with one, `execDec_of_first_term` answers the
digits before it, whose sum and nibbles `digitSum_take` and `anyNonDigit_take_iff` read off IBUF's places. -/
theorem decSumsDigitsBeforeTerminator : Obligations.DecSumsDigitsBeforeTerminator := by
  intro s
  refine ⟨execDec_of_no_term, ?_⟩
  intro t ht hterm hfirst sum hsum
  have hdigits : digitSum (s.ibuf.toList.take t) = sum := by
    rw [hsum, digitSum_take]
    simp only [lo4, hi4_eq_div]
  have hndig := anyNonDigit_take_iff s.ibuf t
  simp only [lo4, hi4_eq_div] at hndig
  have hmod : BitVec.ofNat 32 (sum % 2 ^ 32) = BitVec.ofNat 32 sum := by simp [← BitVec.toNat_inj]
  rw [hmod]
  refine (execDec_of_first_term ht hterm hfirst).trans ?_
  simp only [statusOf_completed, hdigits, hndig, decide_eq_true_eq]

/-! ### ENC -/

/-- Settles O15: OBUF is `encodeBytes` of FREQ, whose byte i is that of `encodeByte_toNat`. -/
theorem encWritesDecimalDigits : Obligations.EncWritesDecimalDigits := by
  intro s
  refine ⟨encodeBytes s.freq.toNat, rfl, fun i => ?_⟩
  have hbyte : (encodeBytes s.freq.toNat)[i] = encodeByte s.freq.toNat i := encodeBytes_getElem _ i
  rw [hbyte, encodeByte_toNat, Nat.mul_comm 16]

end Sys2Proof.Machine
end

section
/-! PROOFS. The synthesizer divider planner (41_planner.md R120, R121). -/

namespace Sys2Proof.Machine

/-! ### The reduction loop -/

/-- There is only one first count that brings t below 2^20. -/
theorem firstShiftCount_unique {t k m : Nat} (hk : t / 2 ^ k < 2 ^ 20)
    (hkfirst : ∀ j < k, 2 ^ 20 ≤ t / 2 ^ j) (hm : t / 2 ^ m < 2 ^ 20)
    (hmfirst : ∀ j < m, 2 ^ 20 ≤ t / 2 ^ j) : k = m := by
  apply Nat.le_antisymm
  · exact Nat.le_of_not_lt fun hmk => Nat.not_lt.mpr (hkfirst m hmk) hm
  · exact Nat.le_of_not_lt fun hkm => Nat.not_lt.mpr (hmfirst k hkm) hk

/-- The loop shifts by the first count that brings a 32-bit target below 2^20 (41_planner.md R121). -/
theorem reducedRatio_of_firstShiftCount (v : Nat) {t k : Nat} (ht : t < 2 ^ 32)
    (hk : t / 2 ^ k < 2 ^ 20) (hkfirst : ∀ j < k, 2 ^ 20 ≤ t / 2 ^ j) :
    reducedRatio v t = (v % t / 2 ^ k, t / 2 ^ k) := by
  obtain ⟨m, hratio, hm, hmfirst⟩ := reducedRatio_spec v t ht
  obtain rfl := firstShiftCount_unique hk hkfirst hm hmfirst
  exact hratio

/-! ### The divider fields -/

/-- The integer field over the integers (41_planner.md R121). -/
theorem integerField_eq (a fp : Nat) : integerField a fp = 128 * (a : Int) + fp - 512 := by
  simp [integerField, fracScale, p1Offset]

/-- The four registers of a plan, from the ratio the loop leaves (41_planner.md R121). -/
theorem planFor_of_reducedRatio {v t b c : Nat} (r : Byte) (h : reducedRatio v t = (b, c)) :
    planFor v t r =
      { p1 := BitVec.ofInt 32 (128 * ((v / t : Nat) : Int) + (128 * b / c : Nat) - 512) |||
          r.setWidth 32 <<< 20
        p2 := BitVec.ofNat 32 (128 * b - 128 * b / c * c)
        p3 := BitVec.ofNat 32 c
        prdiv := r } := by
  simp only [planFor, h, integerField_eq, fracPart, fracScale, rdivShift]

/-! ### PLAN -/

/-- PLAN of an existing channel with TARGET outside the range of R120 turns the channel off. -/
theorem execPlan_of_out_of_range {s : State} {ch : Channel} (hch : ch.toNat < s.cfg.nOut)
    (hrange : s.target.toNat < 500000 ∨ 109000000 < s.target.toNat) :
    execPlan ch s = .next
      { s with outen := s.outen &&& ~~~ (1#16 <<< ch.toNat), status := 2 } := by
  have hout := (inRange_eq_false_iff _).mpr hrange
  obtain ⟨habsent, -⟩ | ⟨-, hin, -⟩ | ⟨-, -, hexec⟩ := execPlan_cases ch s
  · exact absurd habsent (Nat.not_le.mpr hch)
  · exact absurd (hin.symm.trans hout) nofun
  · exact hexec

/-- PLAN of an existing channel with TARGET in range writes the channel's plan and turns the channel on. -/
theorem execPlan_of_in_range {s : State} {ch : Channel} (hch : ch.toNat < s.cfg.nOut)
    (hmin : 500000 ≤ s.target.toNat) (hmax : s.target.toNat ≤ 109000000) :
    execPlan ch s = .next
      { s with
        plans := s.plans.set ch.toNat (planFor s.vco.toNat s.target.toNat s.rdiv) ch.isLt
        outen := s.outen ||| 1#16 <<< ch.toNat
        status := 0 } := by
  have hin := (inRange_iff _).mpr ⟨hmin, hmax⟩
  obtain ⟨habsent, -⟩ | ⟨-, -, hexec⟩ | ⟨-, hout, -⟩ := execPlan_cases ch s
  · exact absurd habsent (Nat.not_le.mpr hch)
  · exact hexec
  · exact absurd (hin.symm.trans hout) nofun

/-- Settles O20: `execPlan_of_out_of_range` and `execPlan_of_in_range` give the two outcomes; in range the
loop's ratio is that of the stated count, and `planFor_of_reducedRatio` reads the four registers off it. -/
theorem planComputesDividers : Obligations.PlanComputesDividers := by
  intro s ch hch
  refine ⟨execPlan_of_out_of_range hch, ?_⟩
  rintro hmin hmax a b c k fp rfl hk hkfirst rfl rfl rfl
  have hratio := reducedRatio_of_firstShiftCount s.vco.toNat s.target.isLt hk hkfirst
  rw [← planFor_of_reducedRatio s.rdiv hratio]
  exact execPlan_of_in_range hch hmin hmax

end Sys2Proof.Machine
end

section
/-! PROOFS. Transmit filter band selection (42_band.md R140, R141). -/

namespace Sys2Proof.Machine

/-! ### The band rule -/

/-- The table of 42_band.md R140: each frequency lies in one row's interval and has that row's band. -/
theorem bandOf_cases (f : Nat) :
    (21000001 ≤ f ∧ bandOf f = 1) ∨ ((14000000 ≤ f ∧ f ≤ 21000000) ∧ bandOf f = 2) ∨
      ((7000001 ≤ f ∧ f ≤ 13999999) ∧ bandOf f = 3) ∨ (f ≤ 7000000 ∧ bandOf f = 4) := by
  unfold bandOf bandT1 bandT2 bandT3
  split_ifs with habove21 hfrom14 habove7
  · exact .inl ⟨habove21, rfl⟩
  · exact .inr (.inl ⟨⟨hfrom14, Nat.not_lt.mp habove21⟩, rfl⟩)
  · exact .inr (.inr (.inl ⟨⟨habove7, Nat.le_of_lt_succ (Nat.not_le.mp hfrom14)⟩, rfl⟩))
  · exact .inr (.inr (.inr ⟨Nat.not_lt.mp habove7, rfl⟩))

/-- A band is answered on its row's interval only: the rows of R140's table are disjoint. -/
theorem bandOf_eq_iff (f : Nat) :
    (bandOf f = 1 ↔ 21000001 ≤ f) ∧ (bandOf f = 2 ↔ 14000000 ≤ f ∧ f ≤ 21000000) ∧
      (bandOf f = 3 ↔ 7000001 ≤ f ∧ f ≤ 13999999) ∧ (bandOf f = 4 ↔ f ≤ 7000000) := by
  obtain ⟨hrow, hband⟩ | ⟨hrow, hband⟩ | ⟨hrow, hband⟩ | ⟨hrow, hband⟩ := bandOf_cases f <;>
    simp only [hband, BitVec.reduceEq, true_iff, false_iff] <;> omega

/-! ### BAND -/

/-- BAND writes the band of FREQ and STATUS 0 and leaves the rest (42_band.md R141). -/
theorem execBand_eq (s : State) :
    execBand s = .next { s with band := bandOf s.freq.toNat, status := 0 } := rfl

/-- Settles O27: the value is `bandOf` of FREQ by `execBand_eq`, and `bandOf_eq_iff` gives the intervals; the
first one's upper end is FREQ's width. -/
theorem bandFollowsThresholds : Obligations.BandFollowsThresholds := by
  intro s
  obtain ⟨hone, htwo, hthree, hfour⟩ := bandOf_eq_iff s.freq.toNat
  have hmax : s.freq.toNat ≤ 4294967295 := Nat.le_of_lt_succ s.freq.isLt
  exact ⟨bandOf s.freq.toNat, execBand_eq s, rfl, hone.trans (and_iff_left hmax).symm, htwo, hthree, hfour⟩

end Sys2Proof.Machine
end

section
/-! PROOFS. The control commands and the host's accesses (43_control.md). -/

namespace Sys2Proof

/-! ### Illegal words -/

/-- Each defect of R151 breaks a field of legal(w): a reserved opcode, a reserved bit, a channel where the
command has none, a channel that does not exist. -/
theorem legal_eq_false_of_defect {c : Config} {w : Word}
    (h : 5 ≤ w.toNat % 16 ∨ w.toNat / 256 ≠ 0 ∨ (w.toNat / 16 % 16 ≠ 0 ∧ w.toNat % 16 ≠ 3) ∨
      (w.toNat % 16 = 3 ∧ c.nOut ≤ w.toNat / 16 % 16)) : legal c w = false := by
  rw [← Bool.not_eq_true, legal_iff_fields]
  simp only [List.mem_cons, List.not_mem_nil, or_false]
  omega

end Sys2Proof

namespace Sys2Proof.Machine

/-! ### The commands -/

theorem exec_nop (s : State) : exec .nop s = .next { s with status := 0 } := rfl

/-- An illegal command ends in R151's raise, whatever its word. -/
theorem exec_illegal (w : Word) (s : State) : exec (.illegal w) s = .next { s with status := 3 } := rfl

/-- Settles O9: NOP is its `finish` alone. -/
theorem nopClearsStatusOnly : Obligations.NopClearsStatusOnly := exec_nop

/-- Settles O10: a defect makes the word not legal, such a word decodes to the illegal command, and that command
only raises IllegalCommand. -/
theorem illegalWordsRaiseOnly : Obligations.IllegalWordsRaiseOnly := by
  intro s w hdefect
  have hlegal : legal s.cfg w = false := legal_eq_false_of_defect hdefect
  exact ⟨(decode_eq_illegal_iff s.cfg w).mpr hlegal, exec_illegal w s, runCommand_of_not_legal s hlegal⟩

/-! ### Accesses at a register's own address -/

/-- A read at the address of a register of the block answers that register (43_control.md R153). -/
theorem peek_addrOf (s : State) {r : Reg} (h : r.present s.cfg = true) :
    peek s (addrOf r) = readReg s r := by
  simp only [peek, regAt_addrOf s.cfg r h]

/-- A write at the address of a register of the block other than CMD stores to that register (43_control.md
R152). -/
theorem memWrite_addrOf (s : State) {r : Reg} (v : Word) (h : r.present s.cfg = true)
    (hcmd : addrOf r ≠ addrOf .cmd) : memWrite (addrOf r) v s = .next (writeReg s r v) := by
  simp only [memWrite, if_neg hcmd, poke, regAt_addrOf s.cfg r h]

/-! ### Reads -/

/-- A register no wider than the word is read zero-extended, so its value is read unchanged (20_memory.md R54). -/
theorem toNat_peek_addrOf (s : State) {r : Reg} {n : Nat} {x : BitVec n} (h : r.present s.cfg = true)
    (hread : readReg s r = x.setWidth 32) (hn : n ≤ 32) : (peek s (addrOf r)).toNat = x.toNat := by
  rw [peek_addrOf s h, hread, BitVec.toNat_setWidth_of_le hn]

/-- The enables of the channels that exist, as a number (10_state.md R32). -/
theorem outenBits_toNat {s : State} (h : s.cfg.nOut ≤ 16) :
    (outenBits s).toNat = s.outen.toNat % 2 ^ s.cfg.nOut := by
  have hmask : 2 ^ s.cfg.nOut - 1 < 2 ^ 16 :=
    (Nat.sub_lt (Nat.two_pow_pos _) Nat.one_pos).trans_le (Nat.pow_le_pow_right (by decide) h)
  rw [outenBits, BitVec.toNat_and, BitVec.toNat_ofNat, Nat.mod_eq_of_lt hmask, Nat.and_two_pow_sub_one_eq_mod]

/-- The four plan addresses of an existing channel answer that channel's plan (20_memory.md R52). -/
theorem peek_plan (s : State) {ch : Channel} (hch : ch.toNat < s.cfg.nOut) :
    peek s (0x40 + 4 * ch.toNat) = (s.plan ch).p1 ∧ peek s (0x40 + 4 * ch.toNat + 1) = (s.plan ch).p2 ∧
      peek s (0x40 + 4 * ch.toNat + 2) = (s.plan ch).p3 ∧
      (peek s (0x40 + 4 * ch.toNat + 3)).toNat = (s.plan ch).prdiv.toNat := by
  have hpresent : decide (ch.toNat < s.cfg.nOut) = true := decide_eq_true hch
  exact ⟨peek_addrOf s (r := .p1 ch) hpresent, peek_addrOf s (r := .p2 ch) hpresent,
    peek_addrOf s (r := .p3 ch) hpresent, toNat_peek_addrOf s (r := .prdiv ch) hpresent rfl (by decide)⟩

/-- Settles O29: a register that is present is read at its own address (`peek_addrOf`), a narrow one with its
value unchanged (`toNat_peek_addrOf`), and an unmapped address names none. -/
theorem readAnswersTheRegister : Obligations.ReadAnswersTheRegister := by
  intro s a ⟨_, hmax⟩
  refine ⟨memRead_frame a s, ?cmd, ?status, ?term, ?dlen, ?freq, ?vco, ?target, ?rdiv, ?band, ?outen, ?ibuf, ?obuf,
    ?plans, fun ha => peek_of_regAt_none (regAt_unmapped ha)⟩
  case cmd => rintro rfl; exact peek_addrOf s (r := .cmd) rfl
  case status => rintro rfl; exact toNat_peek_addrOf s (r := .status) rfl rfl (by decide)
  case term => rintro rfl; exact toNat_peek_addrOf s (r := .term) rfl rfl (by decide)
  case dlen => rintro rfl; exact toNat_peek_addrOf s (r := .dlen) rfl rfl (by decide)
  case freq => rintro rfl; exact peek_addrOf s (r := .freq) rfl
  case vco => rintro rfl; exact peek_addrOf s (r := .vco) rfl
  case target => rintro rfl; exact peek_addrOf s (r := .target) rfl
  case rdiv => rintro rfl; exact toNat_peek_addrOf s (r := .rdiv) rfl rfl (by decide)
  case band => rintro rfl; exact toNat_peek_addrOf s (r := .band) rfl rfl (by decide)
  case outen =>
    rintro rfl
    exact (toNat_peek_addrOf s (r := .outen) rfl rfl (by decide)).trans (outenBits_toNat hmax)
  case ibuf => rintro i rfl; exact toNat_peek_addrOf s (r := .ibuf i) rfl rfl (by decide)
  case obuf => rintro i rfl; exact toNat_peek_addrOf s (r := .obuf i) rfl rfl (by decide)
  case plans =>
    intro ch hch
    obtain ⟨hp1, hp2, hp3, hprdiv⟩ := peek_plan s (ch := .ofFin ch) hch
    exact ⟨(· ▸ hp1), (· ▸ hp2), (· ▸ hp3), (· ▸ hprdiv)⟩

/-! ### Writes -/

/-- Settles O30: each read-write register is stored to at its own address (`memWrite_addrOf`), and every other
address but CMD's lies outside them. -/
theorem writeStoresLowBits : Obligations.WriteStoresLowBits := by
  intro s a v
  have hlow : v.extractLsb' 0 8 = v.setWidth 8 := (BitVec.setWidth_eq_extractLsb' (by decide)).symm
  rw [hlow]
  refine ⟨?cmd, ?term, ?dlen, ?freq, ?vco, ?target, ?rdiv, ?ibuf, memWrite_outside_readWrite s v⟩
  case cmd => rintro rfl; rfl
  case term => rintro rfl; exact memWrite_addrOf s (r := .term) v rfl (by decide)
  case dlen => rintro rfl; exact memWrite_addrOf s (r := .dlen) v rfl (by decide)
  case freq => rintro rfl; exact memWrite_addrOf s (r := .freq) v rfl (by decide)
  case vco => rintro rfl; exact memWrite_addrOf s (r := .vco) v rfl (by decide)
  case target => rintro rfl; exact memWrite_addrOf s (r := .target) v rfl (by decide)
  case rdiv => rintro rfl; exact memWrite_addrOf s (r := .rdiv) v rfl (by decide)
  case ibuf =>
    rintro i rfl
    exact memWrite_addrOf s (r := .ibuf i) v rfl (by simp [addrOf])

end Sys2Proof.Machine
end

section
/-! PROOFS. The outcomes a command reports in STATUS (60_exceptions.md R162, R163, R165). -/

namespace Sys2Proof

/-! ### The decoder -/

/-- The decoder answers existing channels only, and `illegal` only on a word that is not legal. -/
theorem wellFormed_decode (c : Config) (w : Word) : (decode c w).wellFormed c = true := by
  obtain ⟨i, hi, -, -, hwf, -⟩ | ⟨e, he, hnot⟩ := decodeLegal_cases c w
  · rw [decode, hi]
    exact hwf
  · rw [(decode_eq_illegal_iff c w).mpr hnot, Instr.wellFormed, hnot]
    rfl

end Sys2Proof

namespace Sys2Proof.Machine

/-! ### DEC -/

/-- The search in the first k bytes fails exactly when the terminator stands at none of their places. -/
theorem untilTerm_take_eq_none_iff {n : Nat} (v : Vector Byte n) (k : Nat) (term : Byte) :
    untilTerm term (v.toList.take k) = none ↔ ∀ i : Fin n, i.val < k → v[i] ≠ term := by
  refine ⟨fun hnone i hik => ?_, untilTerm_take_eq_none⟩
  exact (untilTerm_eq_none_iff term _).mp hnone v[i] ((mem_toList_take_iff v k v[i]).mpr ⟨i, hik, rfl⟩)

/-- The CODE of a DEC that completes is not MalformedFrame, whatever its flags. -/
theorem statusCode_completed_ne_malformedFrame (ovf ndig : Bool) : statusCode (statusOf .ok ovf ndig) ≠ 1 := by
  rw [statusCode_statusOf]
  decide

/-- DEC reports OK, possibly with flags, or MalformedFrame without any. -/
theorem execDec_status {s t : State} (h : execDec s = .next t) : statusCode t.status = 0 ∨ t.status = 1 := by
  obtain ⟨-, hexec⟩ | ⟨bs, -, hexec⟩ := execDec_cases s
  · obtain rfl := Host.Outcome.next.inj (hexec.symm.trans h)
    exact .inr rfl
  · obtain rfl := Host.Outcome.next.inj (hexec.symm.trans h)
    exact .inl (statusCode_statusOf .ok _ _)

/-- Settles O12: DEC takes its malformed branch exactly when the search fails (`untilTerm_take_eq_none_iff`), and
that branch is a `raise`; the other one reports OK. -/
theorem decMalformedExactlyWithoutTerminator : Obligations.DecMalformedExactlyWithoutTerminator := by
  intro s
  have hsearch := untilTerm_take_eq_none_iff s.ibuf (decodeBound s.dlen) s.term
  obtain ⟨hnone, hexec⟩ | ⟨bs, hsome, hexec⟩ := execDec_cases s
  · exact ⟨_, hexec, iff_of_true rfl (hsearch.mp hnone), fun _ => rfl⟩
  · have hcode := statusCode_completed_ne_malformedFrame (decide (2 ^ 32 ≤ digitSum bs)) (anyNonDigit bs)
    refine ⟨_, hexec, iff_of_false hcode fun hno => ?_, fun hmalformed => absurd hmalformed hcode⟩
    exact absurd ((hsearch.mpr hno).symm.trans hsome) nofun

/-! ### PLAN -/

/-- PLAN of an existing channel: OK with TARGET in range, else FrequencyOutOfRange with the channel turned off. -/
theorem execPlan_cases_of_present {s : State} {ch : Channel} (hch : ch.toNat < s.cfg.nOut) :
    (inRange s.target.toNat = true ∧ ∃ t, execPlan ch s = .next t ∧ t.status = 0) ∨
      (inRange s.target.toNat = false ∧
        execPlan ch s = .next (raise .freqOutOfRange (s.setOuten ch false))) := by
  obtain ⟨habsent, -⟩ | ⟨-, hin, hexec⟩ | ⟨-, hout, hexec⟩ := execPlan_cases ch s
  · exact absurd habsent (Nat.not_le.mpr hch)
  · exact .inl ⟨hin, _, hexec, rfl⟩
  · exact .inr ⟨hout, hexec⟩

/-- PLAN of an existing channel reports OK or FrequencyOutOfRange. -/
theorem execPlan_status {s t : State} {ch : Channel} (hch : ch.toNat < s.cfg.nOut)
    (h : execPlan ch s = .next t) : t.status = 0 ∨ t.status = 2 := by
  obtain ⟨-, u, hexec, hok⟩ | ⟨-, hexec⟩ := execPlan_cases_of_present hch
  · obtain rfl := Host.Outcome.next.inj (hexec.symm.trans h)
    exact .inl hok
  · obtain rfl := Host.Outcome.next.inj (hexec.symm.trans h)
    exact .inr rfl

/-- Settles O19: the branch PLAN takes follows `inRange`; the refusing one raises its code after clearing the
channel's bit of OUTEN, and `getLsbD_setOuten` reads every bit. -/
theorem planRefusesExactlyOutOfRange : Obligations.PlanRefusesExactlyOutOfRange := by
  intro s ch hch
  rw [← inRange_eq_false_iff]
  obtain ⟨hin, t, hexec, hok⟩ | ⟨hout, hexec⟩ := execPlan_cases_of_present hch
  · have hstatus : t.status ≠ 2 := by
      rw [hok]
      decide
    exact ⟨t, hexec, iff_of_false hstatus (by simp [hin]), fun hrefused => absurd hrefused hstatus⟩
  · exact ⟨_, hexec, iff_of_true rfl hout, fun _ => ⟨rfl, getLsbD_setOuten s ch false⟩⟩

/-! ### Every command word -/

/-- The commands that cannot fail report OK. -/
theorem exec_status_of_infallible {i : Instr} {s t : State} (hi : i = .nop ∨ i = .enc ∨ i = .band)
    (h : exec i s = .next t) : t.status = 0 := by
  obtain rfl | rfl | rfl := hi
  all_goals
    obtain rfl := Host.Outcome.next.inj h
    rfl

/-- Settles O11: an illegal word only raises, each legal command's STATUS is that of its own lemma above (PLAN's
channel exists by `wellFormed_decode`), and the flags clause is that of O44. -/
theorem oneCodePerCommand : Obligations.OneCodePerCommand := by
  intro s w
  obtain ⟨t, hexec, -, hflags⟩ := commandsIgnoreStatus (decode s.cfg w) s 0
  refine ⟨t, hexec, ?illegal, ?dec, ?plan, fun hi => exec_status_of_infallible hi hexec, hflags⟩
  case illegal =>
    intro hlegal
    exact Host.Outcome.next.inj (hexec.symm.trans (runCommand_of_not_legal s hlegal))
  case dec =>
    intro hdec
    rw [hdec] at hexec
    exact execDec_status hexec
  case plan =>
    intro ch hplan
    have hwf := wellFormed_decode s.cfg w
    rw [hplan] at hexec hwf
    exact execPlan_status (of_decide_eq_true hwf) hexec

end Sys2Proof.Machine
end

section
/-! PROOFS. The encoding of the commands and the expansion of host statements (30_encoding.md). -/

namespace Sys2Proof

/-! ### Commands and words -/

/-- Settles O1: `decode_encode`, whose cases are the commands. -/
theorem decodeOfEncodeIsTheCommand : Obligations.DecodeOfEncodeIsTheCommand := fun _ _ => decode_encode

/-- Settles O3: the decoder's two outcomes are those of `decodeLegal_cases`. -/
theorem decodeAnswersWellFormed : Obligations.DecodeAnswersWellFormed := wellFormed_decode

/-- Settles O2: a legal command was read off all the fields of its word, and an illegal one keeps the word. -/
theorem encodeOfDecodeIsTheWord : Obligations.EncodeOfDecodeIsTheWord := by
  intro c w
  obtain ⟨i, hi, hw, -⟩ | ⟨e, he, hillegal⟩ := decodeLegal_cases c w
  · rw [decode, hi]
    exact hw
  · rw [(decode_eq_illegal_iff c w).mpr hillegal, encode]

/-- Settles O5: eleven words, decoded one by one. -/
theorem exampleWordsDecode : Obligations.ExampleWordsDecode := by
  unfold Obligations.ExampleWordsDecode
  decide

end Sys2Proof

namespace Sys2Proof.Machine

/-! ### The expansion of LDBUF -/

theorem length_loadBuffer (i : Nat) (bs : List Word) : (loadBuffer i bs).length = bs.length := by
  induction bs generalizing i with
  | nil => rfl
  | cons b bs ih => rw [loadBuffer, List.length_cons, ih, List.length_cons]

/-- The write of byte j goes to the place j after the first. -/
theorem getElem?_loadBuffer (i : Nat) (bs : List Word) {j : Nat} (h : j < bs.length) :
    (loadBuffer i bs)[j]? = some (.write (0x10 + i + j) 4 bs[j]) := by
  induction bs generalizing i j with
  | nil => exact absurd h (Nat.not_lt_zero j)
  | cons b bs ih =>
    cases j with
    | zero => rfl
    | succ j =>
      have hplace : 0x10 + (i + 1) + j = 0x10 + i + (j + 1) := by omega
      rw [loadBuffer, List.getElem?_cons_succ, ih (i + 1) (Nat.lt_of_succ_lt_succ h), hplace,
        List.getElem_cons_succ]

/-- The writes of a buffer that ends within the 256 addresses are host operations. -/
theorem wellFormed_loadBuffer (i : Nat) {bs : List Word} (h : 0x10 + i + bs.length ≤ 256) :
    (loadBuffer i bs).all HostAccess.wellFormed = true := by
  induction bs generalizing i with
  | nil => rfl
  | cons b bs ih =>
    rw [List.length_cons] at h
    rw [loadBuffer, List.all_cons, ih (i + 1) (by omega), Bool.and_true]
    exact decide_eq_true ⟨rfl, by omega⟩

/-! ### The other statements -/

/-- Every register's address is one of the 256, that of an absent channel's register included. -/
theorem addrOf_lt (r : Reg) : addrOf r < 256 := by
  cases r <;> simp only [addrOf] <;> omega

/-- The address of an admitted reference is one of the 256 (30_encoding.md R78). -/
theorem refAddr_lt {c : Config} {r : RegRef} (h : r.wellFormed c = true) : refAddr r < 256 := by
  cases r with
  | name r => exact addrOf_lt r
  | addr a => exact of_decide_eq_true h

theorem wellFormed_issue (w : Word) : (issue w).wellFormed = true := rfl

theorem wellFormed_writeTo {r : RegRef} (v : Word) (h : refAddr r < 256) : (writeTo r v).wellFormed = true :=
  decide_eq_true ⟨rfl, h⟩

/-- Settles O46: a statement without a buffer expands by definition, PLAN's word is that of `encode_plan`, and
LDBUF's writes are those of `getElem?_loadBuffer` from IBUF[0] on. -/
theorem statementsExpandAsTabled : Obligations.StatementsExpandAsTabled := by
  refine ⟨rfl, rfl, rfl, fun ch => ?plan, rfl, fun _ => rfl, fun _ _ => rfl, fun _ _ => rfl, fun _ => rfl,
    fun _ => rfl, fun bs => ⟨length_loadBuffer 0 bs, fun i => getElem?_loadBuffer 0 bs⟩, fun bs => ?decode,
    fun _ _ _ _ => rfl⟩
  case plan =>
    rw [← encode_plan]
    rfl
  case decode =>
    rw [List.append_assoc]
    rfl

/-- Settles O47: a write to CMD always is a host operation, the buffer of at most 16 values ends within IBUF, and
every register a statement names has an address below 256. -/
theorem statementsExpandToHostOperations : Obligations.StatementsExpandToHostOperations := by
  intro c p _ hp
  have hbuffer {bs : List Word} (hlen : 1 ≤ bs.length ∧ bs.length ≤ 16) :
      (loadBuffer 0 bs).all HostAccess.wellFormed = true := wellFormed_loadBuffer 0 (by omega)
  cases p with
  | nop | dec | enc | plan ch | band | cmd w | planf ch vco target rdiv => rfl
  | wr r v => simpa [expand] using wellFormed_writeTo v (refAddr_lt hp)
  | rd r => simpa [expand, HostAccess.wellFormed] using refAddr_lt hp
  | ldbuf bs => exact hbuffer (of_decide_eq_true hp)
  | decode bs =>
    rw [expand, List.all_append, hbuffer (of_decide_eq_true hp)]
    rfl

end Sys2Proof.Machine
end

section
/-! PROOFS. One step, one access (20_memory.md R50, R60), and runs of a host program (60_exceptions.md R160). -/

namespace Sys2Proof.Machine

/-! ### Accesses -/

/-- Every command answers a next state (60_exceptions.md R160). -/
theorem exec_next (i : Instr) (s : State) : ∃ t, exec i s = .next t :=
  (exec_keeps i s).imp fun _ h => h.1

/-- MemWrite always answers a next state: a command's, or that of a store. -/
theorem memWrite_next (a : Nat) (v : Word) (s : State) : ∃ t, memWrite a v s = .next t := by
  unfold memWrite
  split
  · exact exec_next _ s
  · exact ⟨_, rfl⟩

theorem checked_hostOperation {a : Nat} (k : Host.Outcome State Fault Refusal) (ha : a < 256) :
    checked a 4 k = k := by
  simp [checked, ha]

theorem checked_of_size {n : Nat} (a : Nat) (k : Host.Outcome State Fault Refusal) (hn : n ≠ 4) :
    checked a n k = .refused (.accessSize n) := if_pos hn

theorem checked_of_address {a : Nat} (k : Host.Outcome State Fault Refusal) (ha : 256 ≤ a) :
    checked a 4 k = .refused (.accessAddress a) := by
  simp [checked, ha]

theorem perform_read {a : Nat} (s : State) (ha : a < 256) :
    perform (.read a 4) s = .next (s.setRdata (peek s a)) := checked_hostOperation _ ha

theorem perform_write {a : Nat} (v : Word) (s : State) (ha : a < 256) :
    perform (.write a 4 v) s = memWrite a v s := checked_hostOperation _ ha

/-- A host operation of the block is never refused (20_memory.md R50). -/
theorem perform_next {x : HostAccess} (s : State) (h : x.wellFormed = true) : ∃ t, perform x s = .next t := by
  cases x with
  | read a n =>
    obtain ⟨rfl, ha⟩ : n = 4 ∧ a < 256 := of_decide_eq_true h
    exact ⟨_, perform_read s ha⟩
  | write a n v =>
    obtain ⟨rfl, ha⟩ : n = 4 ∧ a < 256 := of_decide_eq_true h
    rw [perform_write v s ha]
    exact memWrite_next a v s
  | reset => exact ⟨_, rfl⟩

/-- What an access leaves: N_OUT and the accesses still to come, and the value last read unless it is a read
itself. -/
theorem perform_keeps {x : HostAccess} {s t : State} (h : perform x s = .next t) :
    t.cfg = s.cfg ∧ t.pending = s.pending ∧
      (t.rdata = s.rdata ∨ ∃ a, x = .read a 4 ∧ t.rdata = some (peek s a)) := by
  obtain ⟨a, rfl, -, rfl⟩ | ⟨w, -, hexec⟩ | ⟨a, v, -, -, -, rfl⟩ | ⟨-, rfl⟩ := perform_next_cases h
  · exact ⟨rfl, rfl, .inr ⟨a, rfl, rfl⟩⟩
  · obtain ⟨u, hu, hcfg, -, -, -, -, -, -, hpending, hrdata⟩ := exec_keeps (decode s.cfg w) s
    obtain rfl := Host.Outcome.next.inj (hu.symm.trans hexec)
    exact ⟨hcfg, hpending, .inl hrdata⟩
  · obtain ⟨hcfg, -, -, -, -, -, hpending, hrdata⟩ := poke_keeps s a v
    exact ⟨hcfg, hpending, .inl hrdata⟩
  · exact ⟨rfl, rfl, .inl rfl⟩

/-- Settles O35: the check of R50 lets the access through, or names the size first and then the address. -/
theorem accessRunsOrIsRefused : Obligations.AccessRunsOrIsRefused := by
  intro s a n v
  refine ⟨?_, fun hn => ⟨checked_of_size a _ hn, checked_of_size a _ hn⟩, ?_⟩
  · rintro rfl ha
    exact ⟨⟨_, perform_read s ha⟩, perform_next s (decide_eq_true ⟨rfl, ha⟩)⟩
  · rintro rfl ha
    exact ⟨checked_of_address _ ha, checked_of_address _ ha⟩

/-! ### Steps -/

theorem step_idle {s : State} (h : s.pending = []) : step s = .next s := by
  simp only [step, serveNext, h]

theorem step_read {s : State} {a : Nat} {xs : List HostAccess} (h : s.pending = .read a 4 :: xs)
    (ha : a < 256) : step s = .next { s with pending := xs, rdata := some (peek s a) } := by
  rw [step_of_pending h, perform_read _ ha]
  rfl

theorem step_write {s : State} {a : Nat} {v : Word} {xs : List HostAccess}
    (h : s.pending = .write a 4 v :: xs) (ha : a < 256) :
    step s = memWrite a v { s with pending := xs } := by
  rw [step_of_pending h, perform_write v _ ha]

/-- Settles O6: the access is a write at CMD's address, which runs the command it decodes to. -/
theorem stepRunsTheCommandWritten : Obligations.StepRunsTheCommandWritten :=
  fun _ _ _ hpending => step_write hpending (by decide)

/-- Settles O7: one clause for each kind of access. -/
theorem stepServesTheNextAccess : Obligations.StepServesTheNextAccess :=
  fun _ _ => ⟨fun _ ha hpending => step_read hpending ha, fun _ _ ha hpending => step_write hpending ha,
    fun hpending => step_of_pending hpending⟩

/-- Settles O8: the placed access is the write of the word to CMD (`stepRunsTheCommandWritten`); taking it off
the list again gives the state itself back. -/
theorem stepRunsThePlacedWord : Obligations.StepRunsThePlacedWord := by
  intro s w hw
  have hstep := stepRunsTheCommandWritten (s.withFetchWord 32 w) (BitVec.ofNat 32 (w % 2 ^ 32)) s.pending rfl
  rw [Nat.mod_eq_of_lt hw] at hstep
  exact hstep

/-- Settles O34: the first read changes only `rdata`, which no read looks at, so the second answers the same
value. -/
theorem readsRepeat : Obligations.ReadsRepeat := by
  intro s a xs ha hpending
  exact ⟨_, step_read hpending ha, step_read rfl ha⟩

/-- Settles O36: with no access pending there is nothing to perform. -/
theorem idleBlockHoldsItsState : Obligations.IdleBlockHoldsItsState := fun _ => step_idle

/-- Settles O43: an idle step changes nothing, and any other performs the first access (`perform_keeps`). -/
theorem stepKeepsTheParameter : Obligations.StepKeepsTheParameter := by
  intro s t hstep
  obtain ⟨hidle, rfl⟩ | ⟨x, xs, hpending, hperform⟩ := step_next_cases hstep
  · exact ⟨rfl, by rw [hidle, List.tail_nil], fun hchanged => absurd rfl hchanged⟩
  · obtain ⟨hcfg, htail, hrdata⟩ := perform_keeps hperform
    refine ⟨hcfg, by rw [htail, hpending, List.tail_cons], fun hchanged => ?_⟩
    obtain hsame | ⟨a, rfl, hvalue⟩ := hrdata
    · exact absurd hsame hchanged
    · exact ⟨a, xs, hpending, hvalue⟩

/-! ### Runs -/

/-- Settles O37: by induction on the accesses still pending; the first one is a host operation and is performed,
which leaves the rest of the list. -/
theorem programsRunToTheirEnd : Obligations.ProgramsRunToTheirEnd := by
  intro s hgood
  induction hpending : s.pending generalizing s with
  | nil => exact ⟨s, rfl, hpending, rfl⟩
  | cons x xs ih =>
    rw [PendingGood, hpending, List.all_cons, Bool.and_eq_true] at hgood
    obtain ⟨hx, hxs⟩ := hgood
    obtain ⟨u, hperform⟩ := perform_next { s with pending := xs } hx
    obtain ⟨hcfg, hrest, -⟩ := perform_keeps hperform
    have hgood' : PendingGood u := by rw [PendingGood, hrest]; exact hxs
    obtain ⟨t, hrun, hempty, hcfg'⟩ := ih u hgood' hrest
    have hstep : Sys2Proof.core.step s = .next u := (step_of_pending hpending).trans hperform
    exact ⟨t, (run_of_step Sys2Proof.core xs.length hstep).trans hrun, hempty, hcfg'.trans hcfg⟩

end Sys2Proof.Machine
end

section
/-! PROOFS. The laws of the codec (40_codec.md R101, R103, R104): DEC repeated, the image of ENC, and the round
trip through the host. -/

namespace Sys2Proof.Machine

/-! ### DEC repeated -/

theorem execDec_of_not_found {s : State}
    (h : untilTerm s.term (s.ibuf.toList.take (decodeBound s.dlen)) = none) :
    execDec s = .next (raise .malformedFrame s) := by
  simp only [execDec, h]

theorem execDec_of_found {s : State} {bs : List Byte}
    (h : untilTerm s.term (s.ibuf.toList.take (decodeBound s.dlen)) = some bs) :
    execDec s = .next (finish .ok (decide (2 ^ 32 ≤ digitSum bs)) (anyNonDigit bs)
      (s.setFreq (BitVec.ofNat 32 (digitSum bs)))) := by
  simp only [execDec, h]

/-- Settles O14: DEC writes FREQ and STATUS, and its search reads neither, so the second one finds what the first
found. -/
theorem decTwiceIsDecOnce : Obligations.DecTwiceIsDecOnce := by
  intro s
  obtain ⟨hnone, hexec⟩ | ⟨bs, hsome, hexec⟩ := execDec_cases s
  · exact ⟨_, hexec, execDec_of_not_found (s := raise .malformedFrame s) hnone⟩
  · exact ⟨_, hexec, execDec_of_found (s := finish .ok _ _ (s.setFreq _)) hsome⟩

/-! ### The bytes of ENC -/

theorem execEnc_eq (s : State) :
    execEnc s = .next { s with obuf := encodeBytes s.freq.toNat, status := 0 } := rfl

theorem decimal_encodeBytes (v : Nat) (i : Fin 5) :
    lo4 ((encodeBytes v)[i.val]'i.isLt) ≤ 9 ∧ hi4 ((encodeBytes v)[i.val]'i.isLt) ≤ 9 := by
  rw [encodeBytes_getElem, lo4_encodeByte, hi4_encodeByte]
  omega

/-- The digits of a 32-bit value: all decimal, and the tenth at most 4 as 2^32 is below 5 * 10^9 (40_codec.md
R104). -/
theorem obufGood_encodeBytes {v : Nat} (h : v < 2 ^ 32) : ObufGood (encodeBytes v) := by
  refine ⟨decimal_encodeBytes v, ?_⟩
  have htop : hi4 (encodeBytes v)[4] = v / 10 ^ 9 % 10 := hi4_encodeByte v 4
  omega

/-- Ten decimal digits are told by their sum, so `encodeBytes` is the only decimal string of a value. -/
theorem eq_encodeBytes {o : Vector Byte 5} {v : Nat} (hdecimal : ∀ i : Fin 5, lo4 o[i] ≤ 9 ∧ hi4 o[i] ≤ 9)
    (hsum : v = ∑ i : Fin 5, (lo4 o[i] * 10 ^ (2 * i.val) + hi4 o[i] * 10 ^ (2 * i.val + 1))) :
    o = encodeBytes v := by
  simp only [Fin.sum_univ_five, Fin.isValue, Fin.coe_ofNat_eq_mod, Nat.reduceMod, Nat.reduceMul,
    Nat.reduceAdd] at hsum
  have h0 := hdecimal 0
  have h1 := hdecimal 1
  have h2 := hdecimal 2
  have h3 := hdecimal 3
  have h4 := hdecimal 4
  have hdigit (i : Fin 5) : lo4 o[i] = v / 10 ^ (2 * i.val) % 10 ∧ hi4 o[i] = v / 10 ^ (2 * i.val + 1) % 10 := by
    fin_cases i <;> simp only [Fin.isValue, Fin.zero_eta, Fin.mk_one, Fin.reduceFinMk] <;> omega
  apply Vector.ext
  intro i hi
  obtain ⟨hlo, hhi⟩ := hdigit ⟨i, hi⟩
  rw [encodeBytes_getElem v ⟨i, hi⟩]
  exact byte_ext (hlo.trans (lo4_encodeByte v i).symm) (hhi.trans (hi4_encodeByte v i).symm)

/-- Below 10^10 the ten digits lose nothing: DEC's sum over them is the value (40_codec.md R103). -/
theorem digitSum_encodeBytes {v : Nat} (h : v < 2 ^ 32) : digitSum (encodeBytes v).toList = v := by
  simp only [encodeBytes_toList, digitSum, digitSumFrom, lo4_encodeByte, hi4_encodeByte]
  omega

/-- Settles O16: OBUF is `encodeBytes` of a 32-bit FREQ. -/
theorem encNibblesAreDecimal : Obligations.EncNibblesAreDecimal :=
  fun s => ⟨_, execEnc_eq s, obufGood_encodeBytes s.freq.isLt⟩

/-- Settles O17: the given bytes are `encodeBytes` of FREQ (`eq_encodeBytes`). -/
theorem encImageIsUnique : Obligations.EncImageIsUnique := by
  intro s o hdecimal hsum
  rw [eq_encodeBytes hdecimal hsum]
  exact execEnc_eq s

/-! ### The host's copy of OBUF and TERM (40_codec.md R103) -/

/-- A byte written to IBUF as the host read it is stored unchanged. -/
theorem poke_ibuf (s : State) (i : Fin 16) (b : Byte) :
    poke s (0x10 + i.val) (b.setWidth 32) = s.setIbuf i b := by
  have hlow : (b.setWidth 32).setWidth 8 = b := by
    rw [BitVec.setWidth_setWidth_of_le b (by decide), BitVec.setWidth_eq]
  simp only [poke, regAt_ibuf, writeReg, hlow]

theorem poke_freq (s : State) (v : Word) : poke s 0x04 v = s.setFreq v := rfl

theorem peek_obuf (s : State) (i : Fin 5) : peek s (0x20 + i.val) = (s.obuf[i]).setWidth 32 :=
  peek_addrOf s (r := .obuf i) rfl

theorem peek_term (s : State) : peek s 0x02 = s.term.setWidth 32 := rfl

/-- The six writes as updates of IBUF. -/
theorem copyEncoded_eq (s : State) :
    copyEncoded s = (((((s.setIbuf 0 s.obuf[0]).setIbuf 1 s.obuf[1]).setIbuf 2 s.obuf[2]).setIbuf 3
      s.obuf[3]).setIbuf 4 s.obuf[4]).setIbuf 5 s.term := by
  have h0 : peek s 0x20 = s.obuf[0].setWidth 32 := peek_obuf s 0
  have h1 : peek s 0x21 = s.obuf[1].setWidth 32 := peek_obuf s 1
  have h2 : peek s 0x22 = s.obuf[2].setWidth 32 := peek_obuf s 2
  have h3 : peek s 0x23 = s.obuf[3].setWidth 32 := peek_obuf s 3
  have h4 : peek s 0x24 = s.obuf[4].setWidth 32 := peek_obuf s 4
  have hp0 (s : State) (b : Byte) : poke s 0x10 (b.setWidth 32) = s.setIbuf 0 b := poke_ibuf s 0 b
  have hp1 (s : State) (b : Byte) : poke s 0x11 (b.setWidth 32) = s.setIbuf 1 b := poke_ibuf s 1 b
  have hp2 (s : State) (b : Byte) : poke s 0x12 (b.setWidth 32) = s.setIbuf 2 b := poke_ibuf s 2 b
  have hp3 (s : State) (b : Byte) : poke s 0x13 (b.setWidth 32) = s.setIbuf 3 b := poke_ibuf s 3 b
  have hp4 (s : State) (b : Byte) : poke s 0x14 (b.setWidth 32) = s.setIbuf 4 b := poke_ibuf s 4 b
  have hp5 (s : State) (b : Byte) : poke s 0x15 (b.setWidth 32) = s.setIbuf 5 b := poke_ibuf s 5 b
  rw [copyEncoded, h0, h1, h2, h3, h4, peek_term, hp0, hp1, hp2, hp3, hp4, hp5]

theorem copyEncoded_term (s : State) : (copyEncoded s).term = s.term := by
  simp only [copyEncoded_eq, State.setIbuf_term]

theorem copyEncoded_dlen (s : State) : (copyEncoded s).dlen = s.dlen := by
  simp only [copyEncoded_eq, State.setIbuf_dlen]

/-- The first five bytes of IBUF are those of OBUF. -/
theorem copyEncoded_ibuf (s : State) {i : Nat} (h : i < 5) : (copyEncoded s).ibuf[i] = s.obuf[i] := by
  rw [copyEncoded_eq]
  interval_cases i <;> simp

/-- The sixth is TERM. -/
theorem copyEncoded_ibuf_five (s : State) : (copyEncoded s).ibuf[5] = s.term := by
  rw [copyEncoded_eq]
  simp

theorem take_five_copyEncoded (s : State) : (copyEncoded s).ibuf.toList.take 5 = s.obuf.toList := by
  refine List.ext_getElem (by simp) fun i hi _ => ?_
  have hlt : i < 5 := by simp at hi; exact hi
  simpa using copyEncoded_ibuf s hlt

/-! ### The round trip -/

theorem anyNonDigit_encodeBytes (v : Nat) : anyNonDigit (encodeBytes v).toList = false := by
  rw [← Bool.not_eq_true, anyNonDigit_iff]
  rintro ⟨b, hb, hnibble⟩
  obtain ⟨i, hi, rfl⟩ := Vector.getElem_of_mem (Vector.mem_toList_iff.mp hb)
  obtain ⟨hlo, hhi⟩ := decimal_encodeBytes v ⟨i, hi⟩
  exact hnibble.elim (Nat.not_lt.mpr hlo) (Nat.not_lt.mpr hhi)

/-- After the copy, with no byte of OBUF equal to TERM, the first terminator is the copied one, so DEC sums the
bytes of OBUF whatever FREQ holds. -/
theorem execDec_copyEncoded {s : State} (x : Word) (hdlen : 6 ≤ s.dlen.toNat)
    (hne : ∀ i : Fin 5, s.obuf[i] ≠ s.term) :
    execDec ((copyEncoded s).setFreq x) = .next
      { copyEncoded s with
        freq := BitVec.ofNat 32 (digitSum s.obuf.toList)
        status := statusOf .ok (decide (2 ^ 32 ≤ digitSum s.obuf.toList)) (anyNonDigit s.obuf.toList) } := by
  have hbound : (5 : Fin 16).val < min ((copyEncoded s).setFreq x).dlen.toNat 16 := by
    rw [State.setFreq_dlen, copyEncoded_dlen]
    exact Nat.lt_min.mpr ⟨hdlen, by decide⟩
  have hterm : ((copyEncoded s).setFreq x).ibuf[(5 : Fin 16)] = ((copyEncoded s).setFreq x).term :=
    (copyEncoded_ibuf_five s).trans (copyEncoded_term s).symm
  have hfirst (i : Fin 16) (hi : i < 5) :
      ((copyEncoded s).setFreq x).ibuf[i] ≠ ((copyEncoded s).setFreq x).term := by
    have hbyte : (copyEncoded s).ibuf[i] = s.obuf[i.val] := copyEncoded_ibuf s hi
    rw [State.setFreq_ibuf, State.setFreq_term, hbyte, copyEncoded_term]
    exact hne ⟨i, hi⟩
  rw [execDec_of_first_term hbound hterm hfirst, State.setFreq_ibuf]
  have htake : (copyEncoded s).ibuf.toList.take (5 : Fin 16).val = s.obuf.toList := take_five_copyEncoded s
  rw [htake]
  generalize copyEncoded s = c
  rfl

/-- Settles O18: under either condition no encoded byte equals TERM, so DEC sums the bytes of ENC
(`execDec_copyEncoded`), which are decimal and sum to FREQ. -/
theorem decodeOfEncodedFrequency : Obligations.DecodeOfEncodedFrequency := by
  intro s hdlen
  refine ⟨_, execEnc_eq s, fun hterm x => ?_⟩
  have hne (i : Fin 5) : (encodeBytes s.freq.toNat)[i] ≠ s.term := by
    obtain hlo | hhi | hother := hterm
    · rintro heq
      exact absurd (heq ▸ (decimal_encodeBytes s.freq.toNat i).1) (Nat.not_le.mpr hlo)
    · rintro heq
      exact absurd (heq ▸ (decimal_encodeBytes s.freq.toNat i).2) (Nat.not_le.mpr hhi)
    · exact hother i
  have hdec := execDec_copyEncoded (s := { s with obuf := encodeBytes s.freq.toNat, status := 0 }) x hdlen hne
  have hovf : decide (2 ^ 32 ≤ s.freq.toNat) = false := decide_eq_false (Nat.not_le.mpr s.freq.isLt)
  rw [digitSum_encodeBytes s.freq.isLt, anyNonDigit_encodeBytes, hovf, statusOf_ok, BitVec.ofNat_toNat,
    BitVec.setWidth_eq] at hdec
  exact hdec

end Sys2Proof.Machine
end

section
/-! PROOFS. The laws of the planner (41_planner.md R122 to R125): the loop's closed form, the bounds of its
values, and what a plan says of VCO. -/

namespace Sys2Proof.Machine

/-! ### The number of shifts, in closed form (41_planner.md R122) -/

theorem shiftCount_of_lt {t : Nat} (h : t < 2 ^ 20) : shiftCount t = 0 := if_pos h

theorem shiftCount_of_ge {t : Nat} (h : 2 ^ 20 ≤ t) : shiftCount t = Nat.log2 t - 19 :=
  if_neg (Nat.not_lt.mpr h)

theorem twenty_le_log2 {t : Nat} (h : 2 ^ 20 ≤ t) : 20 ≤ Nat.log2 t :=
  (Nat.le_log2 (by omega)).mpr h

/-- The shifts are enough to bring t below 2^20. -/
theorem lt_mul_two_pow_shiftCount (t : Nat) : t < 2 ^ 20 * 2 ^ shiftCount t := by
  by_cases h : t < 2 ^ 20
  · rwa [shiftCount_of_lt h, Nat.pow_zero, Nat.mul_one]
  · have hlog := twenty_le_log2 (Nat.not_lt.mp h)
    rw [shiftCount_of_ge (Nat.not_lt.mp h), ← Nat.pow_add, show 20 + (Nat.log2 t - 19) = Nat.log2 t + 1 by omega]
    exact Nat.lt_log2_self

/-- Where there is a shift at all, they leave at least 2^19. -/
theorem mul_two_pow_shiftCount_le {t : Nat} (h : 1 ≤ shiftCount t) : 2 ^ 19 * 2 ^ shiftCount t ≤ t := by
  have hlarge : 2 ^ 20 ≤ t := by
    by_contra hsmall
    rw [shiftCount_of_lt (Nat.not_le.mp hsmall)] at h
    exact absurd h (by decide)
  have hlog := twenty_le_log2 hlarge
  rw [shiftCount_of_ge hlarge, ← Nat.pow_add, show 19 + (Nat.log2 t - 19) = Nat.log2 t by omega]
  exact Nat.log2_self_le (by omega)

theorem shiftCount_le_seven {t : Nat} (h : t ≤ 109000000) : shiftCount t ≤ 7 := by
  by_contra hmany
  have hle := mul_two_pow_shiftCount_le (t := t) (by omega)
  have hpow : 2 ^ 8 ≤ 2 ^ shiftCount t := Nat.pow_le_pow_right (by decide) (Nat.not_le.mp hmany)
  omega

theorem shifted_lt (t : Nat) : t / 2 ^ shiftCount t < 2 ^ 20 :=
  Nat.div_lt_of_lt_mul (by rw [Nat.mul_comm]; exact lt_mul_two_pow_shiftCount t)

/-- The loop shifts `shiftCount` times: it is the first count that brings t below 2^20. -/
theorem reducedRatio_eq (v : Nat) {t : Nat} (h : t < 2 ^ 32) :
    reducedRatio v t = (v % t / 2 ^ shiftCount t, t / 2 ^ shiftCount t) := by
  refine reducedRatio_of_firstShiftCount v h (shifted_lt t) fun j hj => ?_
  rw [Nat.le_div_iff_mul_le (Nat.two_pow_pos j)]
  have hle := mul_two_pow_shiftCount_le (t := t) (by omega)
  have hpow : 2 ^ (j + 1) ≤ 2 ^ shiftCount t := Nat.pow_le_pow_right (by decide) hj
  omega

/-! ### The bounds of b, c and fp -/

theorem two_pow_nineteen_le_shifted {t : Nat} (h : 1 ≤ shiftCount t) : 2 ^ 19 ≤ t / 2 ^ shiftCount t :=
  (Nat.le_div_iff_mul_le (Nat.two_pow_pos _)).mpr (mul_two_pow_shiftCount_le h)

theorem fMin_le_shifted {t : Nat} (h : 500000 ≤ t) : 500000 ≤ t / 2 ^ shiftCount t := by
  obtain hzero | hpos := Nat.eq_zero_or_pos (shiftCount t)
  · simpa [hzero] using h
  · have := two_pow_nineteen_le_shifted hpos
    omega

/-- What the loop leaves of an in-range target (41_planner.md R122): c in [F_MIN, 2^20), and b at most c. -/
theorem reducedRatio_bounds {v t b c : Nat} (hmin : 500000 ≤ t) (hmax : t ≤ 109000000)
    (h : (b, c) = reducedRatio v t) : 500000 ≤ c ∧ c < 2 ^ 20 ∧ b ≤ c := by
  rw [reducedRatio_eq v (by omega)] at h
  obtain ⟨rfl, rfl⟩ := Prod.mk.inj h
  exact ⟨fMin_le_shifted hmin, shifted_lt t, Nat.div_le_div_right (Nat.mod_lt v (by omega)).le⟩

theorem fracPart_le {b c : Nat} (h : b ≤ c) : fracPart b c ≤ 128 :=
  Nat.div_le_of_le_mul (by rw [fracScale, Nat.mul_comm c]; exact Nat.mul_le_mul_left 128 h)

theorem fracPart_mul_le (b c : Nat) : fracPart b c * c ≤ 128 * b := Nat.div_mul_le_self (128 * b) c

/-- fp reaches 128 only at b = c (41_planner.md R122). -/
theorem fracPart_eq_iff {b c : Nat} (hc : 0 < c) (h : b ≤ c) : fracPart b c = 128 ↔ b = c := by
  constructor
  · intro hfp
    have hle := fracPart_mul_le b c
    rw [hfp] at hle
    omega
  · rintro rfl
    exact Nat.mul_div_cancel 128 hc

/-- P2 is below P3 (41_planner.md R122). -/
theorem fracRemainder_lt {b c : Nat} (hc : 0 < c) : 128 * b - fracPart b c * c < c :=
  (fracRemainder_eq_mod b c).trans_lt (Nat.mod_lt _ hc)

/-- Settles O22: the shifts by the closed form, the bounds of what they leave, and fp and P2 as quotient and
remainder of 128 b by c. -/
theorem reductionLoopBounds : Obligations.ReductionLoopBounds := by
  rintro v t a b c fp hmin hmax - hratio rfl
  obtain ⟨hcmin, hcmax, hbc⟩ := reducedRatio_bounds hmin hmax hratio
  have hcpos : 0 < c := by omega
  have hform := reducedRatio_eq v (show t < 2 ^ 32 by omega)
  rw [← hratio] at hform
  obtain ⟨hb, hc⟩ := Prod.mk.inj hform
  exact ⟨shiftCount_le_seven hmax, hc, hb, fun _ => ⟨hcmin, hcmax⟩,
    fun hshift => ⟨hc ▸ two_pow_nineteen_le_shifted hshift, hcmax⟩, hbc, fracPart_le hbc,
    fracPart_eq_iff hcpos hbc, fracRemainder_eq_mod b c, fracPart_mul_le b c, Nat.mod_lt _ hcpos⟩

theorem quotient_le {v t : Nat} (hv : v < 2 ^ 32) (hmin : 500000 ≤ t) : v / t ≤ 8589 :=
  calc v / t ≤ v / 500000 := Nat.div_le_div_left hmin (by decide)
    _ ≤ 8589 := by omega

/-- Settles O23: the bounds of O22, and those of the quotient of a 32-bit VCO. -/
theorem plannerIntermediatesFit : Obligations.PlannerIntermediatesFit := by
  rintro v t a b c fp hmin hmax rfl hratio rfl
  obtain ⟨hcmin, hcmax, hbc⟩ := reducedRatio_bounds hmin hmax hratio
  have ha : v.toNat / t ≤ 8589 := quotient_le v.isLt hmin
  have hfp := fracPart_le hbc
  have hrem : 128 * b - fracPart b c * c < c := fracRemainder_lt (by omega)
  exact ⟨ha, by omega, by omega, by omega, hcmax⟩

/-! ### The four registers of a plan -/

/-- P3 is c and P2 the remainder below it: neither is narrowed. -/
theorem planFor_p3_p2 {v t b c : Nat} (r : Byte) (hmin : 500000 ≤ t) (hmax : t ≤ 109000000)
    (h : (b, c) = reducedRatio v t) :
    (planFor v t r).p3.toNat = c ∧ (planFor v t r).p2.toNat = 128 * b - fracPart b c * c := by
  obtain ⟨hcmin, hcmax, hbc⟩ := reducedRatio_bounds hmin hmax h
  have hrem : 128 * b - fracPart b c * c < c := fracRemainder_lt (by omega)
  rw [planFor_of_reducedRatio r h.symm]
  exact ⟨Nat.mod_eq_of_lt (by omega), Nat.mod_eq_of_lt (hrem.trans (by omega))⟩

theorem planFor_p1 {v t b c : Nat} (r : Byte) (h : (b, c) = reducedRatio v t) :
    (planFor v t r).p1 =
      BitVec.ofInt 32 (128 * ((v / t : Nat) : Int) + (fracPart b c : Nat) - 512) ||| r.setWidth 32 <<< 20 := by
  rw [planFor_of_reducedRatio r h.symm]
  rfl

/-- An integer field of at most 20 bits and the right divider stand side by side in P1 (41_planner.md R125). -/
theorem p1_toNat_of_fits {I : Int} (r : Byte) (h0 : 0 ≤ I) (h1 : I < 2 ^ 20) :
    (BitVec.ofInt 32 I ||| r.setWidth 32 <<< 20).toNat = r.toNat * 2 ^ 20 + I.toNat := by
  have hlow : I.toNat < 2 ^ 20 := by omega
  have hr := r.isLt
  have hI : (BitVec.ofInt 32 I).toNat = I.toNat := by rw [BitVec.toNat_ofInt]; omega
  have hshift : (r.setWidth 32 <<< 20).toNat = r.toNat <<< 20 := by
    rw [BitVec.toNat_shiftLeft, BitVec.toNat_setWidth, Nat.shiftLeft_eq, Nat.shiftLeft_eq]
    omega
  rw [BitVec.toNat_or, hI, hshift, Nat.or_comm, ← Nat.shiftLeft_add_eq_or_of_lt hlow, Nat.shiftLeft_eq]

/-- A negative integer field has all of bits 31:9 set, so the right divider adds nothing to it (41_planner.md
R125). -/
theorem p1_of_neg {I : Int} (r : Byte) (h0 : -512 ≤ I) (h1 : I < 0) :
    BitVec.ofInt 32 I ||| r.setWidth 32 <<< 20 = BitVec.ofInt 32 I := by
  have htop : (BitVec.ofInt 32 I).toNat / 2 ^ 9 = 2 ^ 23 - 1 := by
    rw [BitVec.toNat_ofInt]
    omega
  have hbit (i : Nat) (hi : 9 ≤ i) (hi' : i < 32) : (BitVec.ofInt 32 I).getLsbD i = true := by
    obtain ⟨j, rfl⟩ := Nat.exists_eq_add_of_le' hi
    rw [BitVec.getLsbD, ← Nat.testBit_div_two_pow, htop, Nat.testBit_two_pow_sub_one]
    exact decide_eq_true (by omega)
  apply BitVec.eq_of_getLsbD_eq
  intro i hi
  rw [BitVec.getLsbD_or, BitVec.getLsbD_shiftLeft]
  by_cases hi20 : i < 20
  · simp [hi20]
  · rw [hbit i (by omega) hi, Bool.true_or]

/-! ### The ratio and VCO (41_planner.md R124) -/

/-- Shifting c and b by the same count loses only the bits shifted out: the low part of t against b, and that of
the remainder against c. -/
theorem ratio_error_eq (v t d : Nat) :
    (t : Int) * ((v / t : Nat) * (t / d : Nat) + (v % t / d : Nat)) - v * (t / d : Nat) =
      ((t % d * (v % t / d) : Nat) : Int) - (v % t % d * (t / d) : Nat) := by
  have ht : (t : Int) = d * (t / d : Nat) + (t % d : Nat) := mod_cast (Nat.div_add_mod t d).symm
  have hv : (v : Int) = t * (v / t : Nat) + (v % t : Nat) := mod_cast (Nat.div_add_mod v t).symm
  have hr : ((v % t : Nat) : Int) = d * (v % t / d : Nat) + (v % t % d : Nat) :=
    mod_cast (Nat.div_add_mod (v % t) d).symm
  push_cast at ht hv hr ⊢
  linear_combination (v % t / d : Int) * ht - (t / d : Int) * hv - (t / d : Int) * hr

/-- Both lost parts are below d, and b is at most c, so the error is below d c. -/
theorem abs_ratio_error_lt {v t d : Nat} (hd : 0 < d) (ht : 0 < t) (hc : 0 < t / d) :
    |(t : Int) * ((v / t : Nat) * (t / d : Nat) + (v % t / d : Nat)) - v * (t / d : Nat)| < d * (t / d : Nat) := by
  have hbc : v % t / d ≤ t / d := Nat.div_le_div_right (Nat.mod_lt v ht).le
  have hlow : t % d * (v % t / d) < d * (t / d) :=
    (Nat.mul_le_mul_left _ hbc).trans_lt (Nat.mul_lt_mul_of_pos_right (Nat.mod_lt t hd) hc)
  have hlow' : v % t % d * (t / d) < d * (t / d) := Nat.mul_lt_mul_of_pos_right (Nat.mod_lt _ hd) hc
  rw [ratio_error_eq]
  exact abs_sub_lt_of_nonneg_of_lt (Int.natCast_nonneg _) (mod_cast hlow) (Int.natCast_nonneg _) (mod_cast hlow')

/-- The error against VCO is below 2^-20 when a is at least 2: where the loop shifts, t is at least 2^19 times
the weight of the lost bits, and VCO at least twice t. -/
theorem abs_ratio_error_relative {v t : Nat} {err c : Int} (hmin : 500000 ≤ t) (hc : 0 < c)
    (hexact : shiftCount t = 0 → err = 0) (herr : |err| < 2 ^ shiftCount t * c) (ha : 2 ≤ v / t) :
    |err| * 2 ^ 20 < v * c := by
  have hv : 2 * t ≤ v := (Nat.le_div_iff_mul_le (by omega)).mp ha
  obtain hzero | hpos := Nat.eq_zero_or_pos (shiftCount t)
  · have hvpos : (0 : Int) < v := by omega
    rw [hexact hzero, abs_zero, zero_mul]
    exact mul_pos hvpos hc
  · have hweight : 2 ^ 20 * 2 ^ shiftCount t ≤ v := by
      have hle := mul_two_pow_shiftCount_le hpos
      omega
    have hweight' : (2 : Int) ^ 20 * 2 ^ shiftCount t ≤ v := mod_cast hweight
    calc |err| * 2 ^ 20
        < 2 ^ shiftCount t * c * 2 ^ 20 := by gcongr
      _ = 2 ^ 20 * 2 ^ shiftCount t * c := by ring
      _ ≤ v * c := by gcongr

/-! ### PLAN -/

/-- What PLAN leaves in the channel's own registers for a target in range. -/
theorem exec_plan_in_range {s : State} {ch : Channel} (hch : ch.toNat < s.cfg.nOut)
    (hmin : 500000 ≤ s.target.toNat) (hmax : s.target.toNat ≤ 109000000) :
    ∃ t, exec (.plan ch) s = .next t ∧ t.plan ch = planFor s.vco.toNat s.target.toNat s.rdiv :=
  ⟨_, execPlan_of_in_range hch hmin hmax, plan_setPlan_self s ch _⟩

/-- The exact value of the four fields: 128 (a + b/c) = I + 512 + P2/P3. -/
theorem fields_sum_exact (a b c : Nat) :
    ((128 * (a : Int) + (fracPart b c : Nat) - 512) + 512) * (c : Nat) + (128 * b - fracPart b c * c : Nat) =
      128 * ((a : Int) * c + b) := by
  rw [Nat.cast_sub (fracPart_mul_le b c)]
  push_cast
  ring

/-- Where the right divider is 0 and the integer field fits in 20 bits, P1 is the field and gives a back. -/
theorem p1_without_divider {a fp : Nat} {I : Int} (hI : I = 128 * (a : Int) + fp - 512) (h0 : 0 ≤ I)
    (h1 : I < 2 ^ 20) (p1 : Word) (hp1 : p1 = BitVec.ofInt 32 I ||| (0 : Byte).setWidth 32 <<< 20) :
    (p1.toNat : Int) = I ∧ a = (p1.toNat + 512 - fp) / 128 ∧ (fp < 128 → a = (p1.toNat + 512) / 128) := by
  have hvalue : p1.toNat = I.toNat := by
    rw [hp1, p1_toNat_of_fits 0 h0 h1]
    simp
  omega

/-- Settles O24: PLAN leaves `planFor`, whose fields add up exactly; the error is that of the bits the loop shifts
out, and P1 without a right divider is the integer field. -/
theorem planReconstructsVco : Obligations.PlanReconstructsVco := by
  intro s ch hch hmin hmax
  obtain ⟨t, hexec, hplan⟩ := exec_plan_in_range hch hmin hmax
  refine ⟨t, hexec, ?_⟩
  rintro a b c fp sh I err rfl hratio rfl hI rfl herr
  obtain ⟨hp3, hp2⟩ := planFor_p3_p2 s.rdiv hmin hmax hratio
  have hp1 := planFor_p1 s.rdiv hratio
  rw [← hI] at hp1
  obtain ⟨hcmin, -, -⟩ := reducedRatio_bounds hmin hmax hratio
  obtain ⟨rfl, rfl⟩ := Prod.mk.inj (hratio.trans (reducedRatio_eq s.vco.toNat s.target.isLt))
  have hbound : |err| < 2 ^ shiftCount s.target.toNat * (s.target.toNat / 2 ^ shiftCount s.target.toNat : Nat) := by
    rw [herr]
    exact_mod_cast abs_ratio_error_lt (Nat.two_pow_pos _) (by omega) (by omega)
  have hexact (hzero : shiftCount s.target.toNat = 0) : err = 0 := by
    rw [herr, ratio_error_eq, hzero]
    simp [Nat.mod_one]
  have hpow : 2 ^ shiftCount s.target.toNat ≤ 2 ^ 7 := Nat.pow_le_pow_right (by decide) (shiftCount_le_seven hmax)
  rw [hplan, hp3, hp2]
  refine ⟨rfl, ?_, hbound, mod_cast hpow, hexact, abs_ratio_error_relative hmin (by omega) hexact hbound, ?_⟩
  · rw [hI]
    exact fields_sum_exact _ _ _
  · intro hrdiv h0 h1
    exact p1_without_divider hI h0 h1 _ (hrdiv ▸ hp1)

/-- The integer field fits in 20 bits in each of the cases of 41_planner.md R125. -/
theorem integerField_fits {v t a fp : Nat} (hmin : 500000 ≤ t) (ha : a = v / t) (hfp : fp ≤ 128)
    (h : (4 ≤ a ∧ a ≤ 8194) ∨ (a = 8195 ∧ fp < 128) ∨ (4 ≤ a ∧ v < 4097500000)) :
    0 ≤ 128 * (a : Int) + fp - 512 ∧ 128 * (a : Int) + fp - 512 < 2 ^ 20 := by
  have hle : a ≤ v / 500000 := ha ▸ Nat.div_le_div_left hmin (by decide)
  omega

/-- Settles O25: where the integer field fits in 20 bits P1 is the two fields side by side
(`p1_toNat_of_fits`), and where it is negative the right divider adds nothing (`p1_of_neg`). -/
theorem rightDividerIsSeparable : Obligations.RightDividerIsSeparable := by
  intro s ch hch hmin hmax
  obtain ⟨t, hexec, hplan⟩ := exec_plan_in_range hch hmin hmax
  refine ⟨t, hexec, ?_⟩
  rintro a fp I ha rfl hI
  obtain ⟨-, -, hbc⟩ := reducedRatio_bounds hmin hmax (Prod.mk.eta (p := reducedRatio s.vco.toNat s.target.toNat))
  have hfp := fracPart_le hbc
  have hp1 := planFor_p1 s.rdiv (Prod.mk.eta (p := reducedRatio s.vco.toNat s.target.toNat))
  rw [← ha, ← hI] at hp1
  rw [hplan, hp1]
  refine ⟨fun hcase => ?_, fun hneg => ?_⟩
  · obtain ⟨h0, h1⟩ := integerField_fits hmin ha hfp hcase
    rw [← hI] at h0 h1
    rw [p1_toNat_of_fits s.rdiv h0 h1]
    omega
  · rw [p1_of_neg s.rdiv (by omega) hneg, BitVec.toNat_ofInt]
    exact ⟨by omega, rfl, by omega⟩

/-- Settles O21: a channel at N_OUT or above takes the first branch of PLAN, which only raises. -/
theorem planOfAbsentChannelRaises : Obligations.PlanOfAbsentChannelRaises := by
  intro s ch habsent
  obtain ⟨-, hexec⟩ | ⟨hch, -⟩ | ⟨hch, -⟩ := execPlan_cases ch s
  · exact hexec
  · exact absurd hch (Nat.not_lt.mpr habsent)
  · exact absurd hch (Nat.not_lt.mpr habsent)

end Sys2Proof.Machine
end

section
/-! PROOFS. What the host's reads show of a store and of a command, which step can change a register, and what a
command's results depend on (10_state.md R21, 20_memory.md section 1, 30_encoding.md R72). -/

namespace Sys2Proof.Machine

/-! ### Reads after an update -/

/-- Two states of one block read alike at an address where the register it names reads alike. -/
theorem peek_congr {s t : State} {a : Nat} (hcfg : t.cfg = s.cfg)
    (h : ∀ r, addrOf r = a → readReg t r = readReg s r) : peek t a = peek s a := by
  unfold peek
  rw [hcfg]
  cases hr : regAt s.cfg a with
  | none => rfl
  | some r => exact h r (addrOf_of_regAt hr).1

theorem readReg_setStatus_of_ne (s : State) (v : BitVec 6) {r : Reg} (h : r ≠ .status) :
    readReg (s.setStatus v) r = readReg s r := by
  cases r with
  | status => exact absurd rfl h
  | _ => rfl

theorem readReg_setOuten_of_ne (s : State) (ch : Channel) (on : Bool) {r : Reg} (h : r ≠ .outen) :
    readReg (s.setOuten ch on) r = readReg s r := by
  cases r with
  | outen => exact absurd rfl h
  | _ => rfl

/-- A plan is read at its channel's four addresses only. -/
theorem readReg_setPlan_of_other (s : State) (ch : Channel) (p : PlanRegs) {r : Reg}
    (h : addrOf r < 0x40 + 4 * ch.toNat ∨ 0x40 + 4 * ch.toNat + 4 ≤ addrOf r) :
    readReg (s.setPlan ch p) r = readReg s r := by
  cases r with
  | p1 ch' | p2 ch' | p3 ch' | prdiv ch' =>
    have hne : ch' ≠ ch := by
      rintro rfl
      simp only [addrOf] at h
      omega
    simp only [readReg, plan_setPlan_of_ne s p hne]
  | _ => rfl

/-- A store changes what is read at its own address only. -/
theorem peek_poke_of_ne (s : State) {a a' : Nat} (v : Word) (h : a' ≠ a) : peek (poke s a v) a' = peek s a' := by
  refine peek_congr (poke_keeps s a v).1 fun r' hr' => ?_
  unfold poke
  cases hr : regAt s.cfg a with
  | none => rfl
  | some r =>
    have hne : r' ≠ r := by
      rintro rfl
      exact h (hr'.symm.trans (addrOf_of_regAt hr).1)
    exact readReg_writeReg_of_ne s v hne

/-- A store to a register of the block is read back from that register. -/
theorem peek_poke_addrOf (s : State) {r : Reg} (v : Word) (h : r.present s.cfg = true) :
    peek (poke s (addrOf r) v) (addrOf r) = readReg (writeReg s r v) r := by
  have hpoke : poke s (addrOf r) v = writeReg s r v := by simp only [poke, regAt_addrOf s.cfg r h]
  rw [hpoke]
  exact peek_addrOf _ ((writeReg_keeps s r v).1 ▸ h)

/-- An eight-bit register keeps the low eight bits of what is written (20_memory.md R54). -/
theorem toNat_low_byte (v : Word) : ((v.setWidth 8).setWidth 32).toNat = v.toNat % 2 ^ 8 := by
  rw [BitVec.toNat_setWidth_of_le (by decide), BitVec.toNat_setWidth]

theorem readReg_setIbuf_self (s : State) (i : Fin 16) (b : Byte) :
    readReg (s.setIbuf i b) (.ibuf i) = b.setWidth 32 := by
  simp [readReg]

/-- Settles O31: each read-write register is read back at its own address (`peek_poke_addrOf`), and a store shows
at no other (`peek_poke_of_ne`). -/
theorem readAfterWrite : Obligations.ReadAfterWrite := by
  intro s a v w hcase
  refine ⟨?_, fun a' ha' => peek_poke_of_ne s v ha'⟩
  have hword : v.toNat = v.toNat % 2 ^ 32 := (Nat.mod_eq_of_lt v.isLt).symm
  have hback {r : Reg} (h : r.present s.cfg = true) :
      (peek (poke s (addrOf r) v) (addrOf r)).toNat = (readReg (writeReg s r v) r).toNat := by
    rw [peek_poke_addrOf s v h]
  obtain ⟨rfl, rfl⟩ | ⟨rfl, rfl⟩ | ⟨rfl, rfl⟩ | ⟨rfl, rfl⟩ | ⟨rfl, rfl⟩ | ⟨rfl, rfl⟩ | ⟨hmin, hmax, rfl⟩ :=
    hcase
  · exact (hback (r := .term) rfl).trans (toNat_low_byte v)
  · exact (hback (r := .dlen) rfl).trans (toNat_low_byte v)
  · exact (hback (r := .freq) rfl).trans hword
  · exact (hback (r := .vco) rfl).trans hword
  · exact (hback (r := .target) rfl).trans hword
  · exact (hback (r := .rdiv) rfl).trans (toNat_low_byte v)
  · obtain ⟨i, rfl⟩ : ∃ i : Fin 16, a = addrOf (.ibuf i) :=
      ⟨⟨a - 0x10, by omega⟩, by simp only [addrOf]; omega⟩
    rw [hback rfl, writeReg, readReg_setIbuf_self, toNat_low_byte]

/-! ### What PLAN shows -/

/-- PLAN changes no more than STATUS, OUTEN and its channel's plan; the bits of OUTEN but its channel's stay. -/
theorem exec_plan_frame (ch : Channel) (s : State) :
    ∃ t, exec (.plan ch) s = .next t ∧ t.cfg = s.cfg ∧
      (∀ r, r ≠ .status → r ≠ .outen →
        (addrOf r < 0x40 + 4 * ch.toNat ∨ 0x40 + 4 * ch.toNat + 4 ≤ addrOf r) → readReg t r = readReg s r) ∧
      ∀ j, j ≠ ch.toNat → t.outen.getLsbD j = s.outen.getLsbD j := by
  obtain ⟨-, hexec⟩ | ⟨-, -, hexec⟩ | ⟨-, -, hexec⟩ := execPlan_cases ch s
  · exact ⟨_, hexec, rfl, fun r hstatus _ _ => readReg_setStatus_of_ne s _ hstatus, fun _ _ => rfl⟩
  · refine ⟨_, hexec, rfl, fun r hstatus houten hother => ?_, fun j hj => ?_⟩
    · rw [finish, readReg_setStatus_of_ne _ _ hstatus, readReg_setOuten_of_ne _ _ _ houten,
        readReg_setPlan_of_other s ch _ hother]
    · rw [finish_outen, getLsbD_setOuten, if_neg hj, State.setPlan_outen]
  · refine ⟨_, hexec, rfl, fun r hstatus houten _ => ?_, fun j hj => ?_⟩
    · rw [raise, finish, readReg_setStatus_of_ne _ _ hstatus, readReg_setOuten_of_ne _ _ _ houten]
    · rw [raise_outen, getLsbD_setOuten, if_neg hj]

/-- A bit of OUTEN as the host reads it: the channel's enable, masked by N_OUT (10_state.md R32). -/
theorem getLsbD_peek_outen (s : State) (j : Nat) :
    (peek s 0x09).getLsbD j =
      (decide (j < 32) && (s.outen.getLsbD j && (BitVec.ofNat 16 (2 ^ s.cfg.nOut - 1)).getLsbD j)) := by
  have hpeek : peek s 0x09 = (outenBits s).setWidth 32 := rfl
  rw [hpeek, BitVec.getLsbD_setWidth, outenBits, BitVec.getLsbD_and]

/-- Settles O26: at every other address the register read is one that PLAN leaves (`exec_plan_frame`). -/
theorem planLeavesOtherChannels : Obligations.PlanLeavesOtherChannels := by
  intro s ch
  obtain ⟨t, hexec, hcfg, hregs, houten⟩ := exec_plan_frame ch s
  refine ⟨t, hexec, fun a hstatus houten hother => ?_, fun j hj => ?_⟩
  · refine peek_congr hcfg fun r hr => ?_
    subst hr
    exact hregs r (fun h => hstatus (congrArg addrOf h)) (fun h => houten (congrArg addrOf h)) hother
  · rw [getLsbD_peek_outen, getLsbD_peek_outen, hcfg, houten j hj]

/-! ### The writers of each register (10_state.md R21) -/

theorem getLsbD_setOuten_of_ne (s : State) {ch ch' : Channel} (on : Bool) (h : ch' ≠ ch) :
    (s.setOuten ch on).outen.getLsbD ch'.toNat = s.outen.getLsbD ch'.toNat := by
  rw [getLsbD_setOuten, if_neg fun e => h (BitVec.eq_of_toNat_eq e)]

/-- Which command changes which result register: FREQ only DEC, BAND only BAND, OBUF only ENC, a channel's plan
and enable only PLAN of that channel, where it exists. -/
theorem exec_writers {i : Instr} {s t : State} (h : exec i s = .next t) :
    (t.freq ≠ s.freq → i = .dec) ∧ (t.band ≠ s.band → i = .band) ∧ (t.obuf ≠ s.obuf → i = .enc) ∧
      ∀ ch : Channel, t.plan ch ≠ s.plan ch ∨ t.outen.getLsbD ch.toNat ≠ s.outen.getLsbD ch.toNat →
        ch.toNat < s.cfg.nOut ∧ i = .plan ch := by
  cases i with
  | nop | illegal w =>
    obtain rfl := Host.Outcome.next.inj h
    exact ⟨absurd rfl, absurd rfl, absurd rfl, fun _ hch => hch.elim (absurd rfl) (absurd rfl)⟩
  | dec =>
    obtain ⟨-, hexec⟩ | ⟨bs, -, hexec⟩ := execDec_cases s <;>
    · obtain rfl := Host.Outcome.next.inj (hexec.symm.trans h)
      exact ⟨fun _ => rfl, absurd rfl, absurd rfl, fun _ hch => hch.elim (absurd rfl) (absurd rfl)⟩
  | enc =>
    obtain rfl := Host.Outcome.next.inj h
    exact ⟨absurd rfl, absurd rfl, fun _ => rfl, fun _ hch => hch.elim (absurd rfl) (absurd rfl)⟩
  | band =>
    obtain rfl := Host.Outcome.next.inj h
    exact ⟨absurd rfl, fun _ => rfl, absurd rfl, fun _ hch => hch.elim (absurd rfl) (absurd rfl)⟩
  | plan ch' =>
    obtain ⟨-, hexec⟩ | ⟨hpresent, -, hexec⟩ | ⟨hpresent, -, hexec⟩ := execPlan_cases ch' s
    · obtain rfl := Host.Outcome.next.inj (hexec.symm.trans h)
      exact ⟨absurd rfl, absurd rfl, absurd rfl, fun _ hch => hch.elim (absurd rfl) (absurd rfl)⟩
    · obtain rfl := Host.Outcome.next.inj (hexec.symm.trans h)
      refine ⟨absurd rfl, absurd rfl, absurd rfl, fun ch hch => ?_⟩
      obtain rfl | hne := eq_or_ne ch ch'
      · exact ⟨hpresent, rfl⟩
      · exact hch.elim (absurd (plan_setPlan_of_ne s _ hne)) (absurd (getLsbD_setOuten_of_ne _ true hne))
    · obtain rfl := Host.Outcome.next.inj (hexec.symm.trans h)
      refine ⟨absurd rfl, absurd rfl, absurd rfl, fun ch hch => ?_⟩
      obtain rfl | hne := eq_or_ne ch ch'
      · exact ⟨hpresent, rfl⟩
      · exact hch.elim (absurd rfl) (absurd (getLsbD_setOuten_of_ne s false hne))

theorem eq_encode_of_decode {c : Config} {w : Word} {i : Instr} (h : decode c w = i) : w = encode i := by
  rw [← h, encodeOfDecodeIsTheWord]

/-- Settles O42: a read changes no register, a store only the one at its address (`poke_other`), a command only
those of `exec_writers`, and its word is the encoding of that command. -/
theorem registersChangeOnlyByTheirWriters : Obligations.RegistersChangeOnlyByTheirWriters := by
  intro s t x xs hpending hreset hstep
  have hperform := (step_of_pending hpending).symm.trans hstep
  obtain ⟨a, rfl, -, rfl⟩ | ⟨w, rfl, hexec⟩ | ⟨a, v, rfl, -, -, rfl⟩ | ⟨rfl, -⟩ :=
    perform_next_cases hperform
  · exact ⟨absurd rfl, absurd rfl, absurd rfl, absurd rfl, absurd rfl, absurd rfl, absurd rfl, absurd rfl,
      absurd rfl, fun _ => absurd rfl, fun _ hch => hch.elim (absurd rfl) (absurd rfl)⟩
  · obtain ⟨hfreq, hband, hobuf, hchannel⟩ := exec_writers hexec
    obtain ⟨u, hu, -, hterm, hdlen, hvco, htarget, hrdiv, hibuf, -⟩ :=
      exec_keeps (decode s.cfg w) { s with pending := xs }
    obtain rfl := Host.Outcome.next.inj (hu.symm.trans hexec)
    have hword {i : Instr} (hi : decode s.cfg w = i) : HostAccess.write 0 4 w = .write 0x00 4 (encode i) := by
      rw [eq_encode_of_decode hi]
    refine ⟨fun _ => ⟨w, rfl⟩, absurd hterm, absurd hdlen, fun h => .inr (hword (hfreq h)), absurd hvco,
      absurd htarget, absurd hrdiv, fun h => hword (hband h), fun h => hword (hobuf h),
      fun i => absurd (congrArg (·[i]) hibuf), fun ch hch => ?_⟩
    obtain ⟨hpresent, hplan⟩ := hchannel ch hch
    exact ⟨hpresent, encode_plan ch ▸ hword hplan⟩
  · obtain ⟨-, hstatus, hband, houten, hobuf, hplans, -, -⟩ := poke_keeps { s with pending := xs } a v
    obtain ⟨hterm, hdlen, hfreq, hvco, htarget, hrdiv, hibuf⟩ := poke_other { s with pending := xs } a v
    have hat {k : Nat} {p : Prop} (hkeep : a ≠ k → p) (hchanged : ¬p) :
        ∃ u, HostAccess.write a 4 v = .write k 4 u :=
      ⟨v, by rw [not_imp_comm.mp hkeep hchanged]⟩
    refine ⟨absurd hstatus, hat hterm, hat hdlen, fun h => .inl (hat hfreq h), hat hvco, hat htarget, hat hrdiv,
      absurd hband, absurd hobuf, fun i => hat (hibuf i), fun ch hch => ?_⟩
    simp only [State.plan, hplans, houten, ne_eq, not_true_eq_false, or_self] at hch
  · exact absurd rfl hreset

/-! ### The operands of each command (30_encoding.md R72) -/

/-- Commands keep the operands of every command equal: they write none of them but FREQ, and only DEC writes
that, from operands. -/
theorem exec_next_sameOperands {i : Instr} {s s' t t' : State} (h : exec i s = .next t) (h' : exec i s' = .next t')
    (hfreq : i = .dec → s.freq = s'.freq → t.freq = t'.freq) (hsame : SameOperands s s') : SameOperands t t' := by
  obtain ⟨u, hu, hcfg, hterm, hdlen, hvco, htarget, hrdiv, hibuf, -⟩ := exec_keeps i s
  obtain rfl := Host.Outcome.next.inj (hu.symm.trans h)
  obtain ⟨u', hu', hcfg', hterm', hdlen', hvco', htarget', hrdiv', hibuf', -⟩ := exec_keeps i s'
  obtain rfl := Host.Outcome.next.inj (hu'.symm.trans h')
  obtain ⟨ecfg, eterm, edlen, eibuf, efreq, evco, etarget, erdiv⟩ := hsame
  have hfreq' : u.freq = u'.freq := by
    by_cases hdec : i = .dec
    · exact hfreq hdec efreq
    · obtain ⟨hwriter, -⟩ := exec_writers h
      obtain ⟨hwriter', -⟩ := exec_writers h'
      have hkeep : u.freq = s.freq := not_imp_comm.mp hwriter hdec
      have hkeep' : u'.freq = s'.freq := not_imp_comm.mp hwriter' hdec
      rw [hkeep, hkeep', efreq]
  exact ⟨hcfg.trans (ecfg.trans hcfg'.symm), hterm.trans (eterm.trans hterm'.symm),
    hdlen.trans (edlen.trans hdlen'.symm), hibuf.trans (eibuf.trans hibuf'.symm), hfreq',
    hvco.trans (evco.trans hvco'.symm), htarget.trans (etarget.trans htarget'.symm),
    hrdiv.trans (erdiv.trans hrdiv'.symm)⟩

/-- PLAN of an existing channel, by whether TARGET is in range: STATUS, the channel's enable and its plan. -/
theorem exec_plan_result {s : State} {ch : Channel} (hch : ch.toNat < s.cfg.nOut) :
    ∃ t, exec (.plan ch) s = .next t ∧ t.status = (if inRange s.target.toNat then 0 else 2) ∧
      t.outen.getLsbD ch.toNat = inRange s.target.toNat ∧
      t.plan ch = if inRange s.target.toNat then planFor s.vco.toNat s.target.toNat s.rdiv else s.plan ch := by
  obtain ⟨habsent, -⟩ | ⟨-, hin, hexec⟩ | ⟨-, hout, hexec⟩ := execPlan_cases ch s
  · exact absurd hch (Nat.not_lt.mpr habsent)
  · rw [hin]
    refine ⟨_, hexec, rfl, ?_, plan_setPlan_self s ch _⟩
    rw [finish_outen, getLsbD_setOuten, if_pos rfl]
  · rw [hout]
    refine ⟨_, hexec, rfl, ?_, rfl⟩
    rw [raise_outen, getLsbD_setOuten, if_pos rfl]

/-- Two DECs with equal operands end in one branch, with the same digits. -/
theorem exec_dec_congr {s s' : State} (hterm : s.term = s'.term) (hdlen : s.dlen = s'.dlen)
    (hibuf : s.ibuf = s'.ibuf) :
    ∃ t t', exec .dec s = .next t ∧ exec .dec s' = .next t' ∧ t.status = t'.status ∧
      (statusCode t.status = 0 ∨ s.freq = s'.freq → t.freq = t'.freq) := by
  obtain ⟨hnone, hexec⟩ | ⟨bs, hsome, hexec⟩ := execDec_cases s
  · have hexec' := execDec_of_not_found (hterm ▸ hdlen ▸ hibuf ▸ hnone)
    have hcode : statusCode (statusOf .malformedFrame false false) ≠ 0 := by decide
    exact ⟨_, _, hexec, hexec', rfl, fun h => h.elim (absurd · hcode) id⟩
  · have hexec' := execDec_of_found (hterm ▸ hdlen ▸ hibuf ▸ hsome)
    exact ⟨_, _, hexec, hexec', rfl, fun _ => rfl⟩

/-- Two PLANs of a channel with equal operands, N_OUT among them, end in one branch, with the same plan. -/
theorem exec_plan_congr {s s' : State} (ch : Channel) (hcfg : s.cfg = s'.cfg) (htarget : s.target = s'.target)
    (hvco : s.vco = s'.vco) (hrdiv : s.rdiv = s'.rdiv) :
    ∃ t t', exec (.plan ch) s = .next t ∧ exec (.plan ch) s' = .next t' ∧ t.status = t'.status ∧
      (ch.toNat < s.cfg.nOut → t.outen.getLsbD ch.toNat = t'.outen.getLsbD ch.toNat ∧
        (t.status = 0 → t.plan ch = t'.plan ch)) := by
  by_cases hch : ch.toNat < s.cfg.nOut
  · obtain ⟨t, hexec, hstatus, houten, hplan⟩ := exec_plan_result hch
    obtain ⟨t', hexec', hstatus', houten', hplan'⟩ := exec_plan_result (s := s') (hcfg ▸ hch)
    rw [← htarget] at hstatus' houten' hplan'
    rw [← hvco, ← hrdiv] at hplan'
    refine ⟨t, t', hexec, hexec', hstatus.trans hstatus'.symm, fun _ => ⟨houten.trans houten'.symm, ?_⟩⟩
    intro hok
    cases hin : inRange s.target.toNat with
    | true => rw [hplan, hplan', hin, if_pos rfl, if_pos rfl]
    | false =>
      rw [hstatus, hin] at hok
      exact absurd hok (by decide)
  · have habsent := Nat.not_lt.mp hch
    exact ⟨_, _, planOfAbsentChannelRaises s ch habsent, planOfAbsentChannelRaises s' ch (hcfg ▸ habsent), rfl,
      fun h => absurd h hch⟩

/-- Settles O45: DEC and PLAN by their congruence lemmas; ENC and BAND compute from FREQ alone, NOP and an illegal
word from nothing. -/
theorem commandsReadOnlyTheirOperands : Obligations.CommandsReadOnlyTheirOperands := by
  intro i s s' hreads
  cases i with
  | nop =>
    exact ⟨_, _, rfl, rfl, rfl, exec_next_sameOperands (i := .nop) rfl rfl nofun, nofun, nofun, nofun, nofun⟩
  | illegal w =>
    exact ⟨_, _, rfl, rfl, rfl, exec_next_sameOperands (i := .illegal w) rfl rfl nofun, nofun, nofun, nofun,
      nofun⟩
  | dec =>
    obtain ⟨hterm, hdlen, hibuf⟩ := hreads
    obtain ⟨t, t', hexec, hexec', hstatus, hfreq⟩ := exec_dec_congr hterm hdlen hibuf
    exact ⟨t, t', hexec, hexec', hstatus, exec_next_sameOperands hexec hexec' fun _ h => hfreq (.inr h),
      fun _ hcode => hfreq (.inl hcode), nofun, nofun, nofun⟩
  | enc =>
    have hfreq : s.freq = s'.freq := hreads
    exact ⟨_, _, rfl, rfl, rfl, exec_next_sameOperands (i := .enc) rfl rfl nofun, nofun,
      fun _ => congrArg (fun f : Word => encodeBytes f.toNat) hfreq, nofun, nofun⟩
  | plan ch =>
    obtain ⟨hcfg, htarget, hvco, hrdiv⟩ := hreads
    obtain ⟨t, t', hexec, hexec', hstatus, hchannel⟩ := exec_plan_congr ch hcfg htarget hvco hrdiv
    refine ⟨t, t', hexec, hexec', hstatus, exec_next_sameOperands hexec hexec' nofun, nofun, nofun, nofun, ?_⟩
    rintro _ ⟨⟩ hch
    exact hchannel hch
  | band =>
    have hfreq : s.freq = s'.freq := hreads
    exact ⟨_, _, rfl, rfl, rfl, exec_next_sameOperands (i := .band) rfl rfl nofun, nofun, nofun,
      fun _ => congrArg (fun f : Word => bandOf f.toNat) hfreq, nofun⟩

end Sys2Proof.Machine
end

section
/-! PROOFS. Reset, and the invariant of the result registers (70_reset_and_hazards.md R180, R182). -/

namespace Sys2Proof.Machine

/-! ### Reset -/

/-- Settles O38: reset is one record update, and the reset state is that record. -/
theorem resetSetsEveryRegister : Obligations.ResetSetsEveryRegister :=
  ⟨fun _ => rfl, fun _ => ⟨rfl, rfl⟩⟩

theorem bandOf_zero : bandOf 0 = 4 := rfl

theorem encodeBytes_zero : encodeBytes 0 = Vector.replicate 5 0 := rfl

/-- Settles O39: BAND and ENC write what is there at FREQ = 0, and no zero byte of IBUF equals the reset TERM. -/
theorem resetIsConsistent : Obligations.ResetIsConsistent := by
  intro c
  refine ⟨?_, ?_, rfl, execDec_of_no_term (s := State.resetFor c) fun i _ => ?_⟩
  · exact congrArg (fun b => Host.Outcome.next { State.resetFor c with band := b, status := 0 }) bandOf_zero
  · exact congrArg (fun o => Host.Outcome.next { State.resetFor c with obuf := o, status := 0 }) encodeBytes_zero
  · have hbyte : (State.resetFor c).ibuf[i] = 0 := Vector.getElem_replicate i.isLt
    have hterm : (State.resetFor c).term = 0xFD := rfl
    rw [hbyte, hterm]
    decide

/-- The invariant speaks of N_OUT and the result registers alone. -/
theorem inv_of_same_results {s t : State} (h : Inv s) (hcfg : t.cfg = s.cfg) (hstatus : t.status = s.status)
    (hband : t.band = s.band) (hobuf : t.obuf = s.obuf) (houten : t.outen = s.outen) (hplans : t.plans = s.plans) :
    Inv t := by
  simp only [Inv, ChannelGood, hcfg, hstatus, hband, hobuf, houten, hplans]
  exact h

/-- Reset's channels hold zeros and are off. -/
theorem channelGood_resetFor (c : Config) (ch : Fin 16) : ChannelGood (State.resetFor c) ch := by
  have hplan : (State.resetFor c).plans[ch.val] = PlanRegs.zero := Vector.getElem_replicate ch.isLt
  have houten : (State.resetFor c).outen.getLsbD ch.val = false := BitVec.getLsbD_zero
  refine ⟨.inl hplan, fun _ => ⟨hplan, houten⟩, fun hon => ?_⟩
  rw [houten] at hon
  contradiction

theorem inv_resetFor {c : Config} (h : c.Valid) : Inv (State.resetFor c) := by
  have hbyte (i : Fin 5) : (State.resetFor c).obuf[i.val] = 0 := Vector.getElem_replicate i.isLt
  have hstatus : StatusGood 0 := by decide
  have hband : BandGood 4 := by decide
  refine ⟨h, hstatus, hband, ⟨fun i => ?_, ?_⟩, channelGood_resetFor c⟩
  · rw [hbyte]
    decide
  · have htop : (State.resetFor c).obuf[4] = 0 := hbyte 4
    rw [htop]
    decide

/-- Settles O40: State.reset is the reset state of N_OUT = 3. -/
theorem resetHasTheInvariant : Obligations.ResetHasTheInvariant :=
  ⟨inv_resetFor (by decide), fun _ => inv_resetFor⟩

/-! ### Commands -/

/-- STATUS is one of `statusOf`, with flags only after a DEC that completes (10_state.md R24, R41). -/
theorem exec_statusGood {i : Instr} {s t : State} (h : exec i s = .next t) : StatusGood t.status := by
  obtain ⟨u, c, ovf, ndig, hexec, hstatus, hflags⟩ := exec_status i s
  obtain rfl := Host.Outcome.next.inj (hexec.symm.trans h)
  rw [StatusGood, hstatus, statusCode_statusOf, statusOvf_statusOf, statusNdig_statusOf]
  refine ⟨by cases c <;> decide, fun hcode => ?_⟩
  have hnone : ¬(ovf = true ∨ ndig = true) := by
    intro hset
    obtain ⟨-, rfl⟩ := hflags hset
    exact hcode rfl
  simpa using hnone

theorem bandGood_bandOf (f : Nat) : BandGood (bandOf f) := by
  obtain ⟨-, h⟩ | ⟨-, h⟩ | ⟨-, h⟩ | ⟨-, h⟩ := bandOf_cases f <;>
  · rw [h]
    decide

theorem exec_bandGood {i : Instr} {s t : State} (h : exec i s = .next t) (hs : BandGood s.band) :
    BandGood t.band := by
  obtain ⟨-, hwriter, -, -⟩ := exec_writers h
  by_cases hsame : t.band = s.band
  · exact hsame ▸ hs
  · obtain rfl := hwriter hsame
    obtain rfl := Host.Outcome.next.inj h
    exact bandGood_bandOf s.freq.toNat

theorem exec_obufGood {i : Instr} {s t : State} (h : exec i s = .next t) (hs : ObufGood s.obuf) :
    ObufGood t.obuf := by
  obtain ⟨-, -, hwriter, -⟩ := exec_writers h
  by_cases hsame : t.obuf = s.obuf
  · exact hsame ▸ hs
  · obtain rfl := hwriter hsame
    obtain rfl := Host.Outcome.next.inj h
    exact obufGood_encodeBytes s.freq.isLt

/-- The right divider's bits stay set in P1, whatever the integer field (41_planner.md R125). -/
theorem or_and_self_right {n : Nat} (x m : BitVec n) : (x ||| m) &&& m = m := by
  apply BitVec.eq_of_getLsbD_eq
  intro i _
  rw [BitVec.getLsbD_and, BitVec.getLsbD_or]
  cases m.getLsbD i with
  | true => rw [Bool.or_true, Bool.true_and]
  | false => rw [Bool.and_false]

/-- The plan of a target in range is a good one (41_planner.md R122). -/
theorem planGood_planFor (v : Nat) {t : Nat} (r : Byte) (h : inRange t = true) : PlanGood (planFor v t r) := by
  obtain ⟨hmin, hmax⟩ := (inRange_iff t).mp h
  have hratio : ((reducedRatio v t).1, (reducedRatio v t).2) = reducedRatio v t := rfl
  obtain ⟨hcmin, hcmax, -⟩ := reducedRatio_bounds hmin hmax hratio
  obtain ⟨hp3, hp2⟩ := planFor_p3_p2 r hmin hmax hratio
  have hrem := fracRemainder_lt (b := (reducedRatio v t).1) (show 0 < (reducedRatio v t).2 by omega)
  rw [PlanGood, hp3, hp2]
  exact ⟨hcmin, hcmax, hrem, or_and_self_right _ _⟩

/-- A channel changes only in a PLAN of it, which exists then; in range it gets a plan and is turned on, out of
range it is turned off. -/
theorem exec_channelGood {i : Instr} {s t : State} (h : exec i s = .next t) {ch : Fin 16} (hs : ChannelGood s ch) :
    ChannelGood t ch := by
  obtain ⟨u, hu, hcfg, -⟩ := exec_keeps i s
  obtain rfl := Host.Outcome.next.inj (hu.symm.trans h)
  obtain ⟨-, -, -, hwriter⟩ := exec_writers h
  by_cases hsame : u.plans[ch.val] = s.plans[ch.val] ∧ u.outen.getLsbD ch.val = s.outen.getLsbD ch.val
  · obtain ⟨hplan, houten⟩ := hsame
    rw [ChannelGood, hplan, houten, hcfg]
    exact hs
  · obtain ⟨hch, rfl⟩ := hwriter (.ofFin ch) (not_and_or.mp hsame)
    obtain ⟨u', hu', -, houten, hplan⟩ := exec_plan_result hch
    obtain rfl := Host.Outcome.next.inj (hu'.symm.trans h)
    have hpresent : ¬u'.cfg.nOut ≤ ch.val := hcfg ▸ Nat.not_le.mpr hch
    cases hin : inRange s.target.toNat with
    | true =>
      rw [hin, if_pos rfl] at hplan
      have hgood : PlanGood (u'.plan (.ofFin ch)) := hplan ▸ planGood_planFor s.vco.toNat s.rdiv hin
      exact ⟨.inr hgood, fun habsent => absurd habsent hpresent, fun _ => hgood⟩
    | false =>
      rw [hin] at houten hplan
      have hplan' : u'.plans[ch.val] = s.plans[ch.val] := hplan
      have houten' : u'.outen.getLsbD ch.val = false := houten
      refine ⟨hplan' ▸ hs.1, fun habsent => absurd habsent hpresent, fun hon => ?_⟩
      rw [houten'] at hon
      contradiction

/-- Every command keeps the invariant. -/
theorem exec_keeps_inv {i : Instr} {s t : State} (hs : Inv s) (h : exec i s = .next t) : Inv t := by
  obtain ⟨hvalid, -, hband, hobuf, hchannels⟩ := hs
  obtain ⟨u, hu, hcfg, -⟩ := exec_keeps i s
  obtain rfl := Host.Outcome.next.inj (hu.symm.trans h)
  exact ⟨hcfg ▸ hvalid, exec_statusGood h, exec_bandGood h hband, exec_obufGood h hobuf,
    fun ch => exec_channelGood h (hchannels ch)⟩

/-! ### Steps -/

/-- Settles O41: a read and a store leave what the invariant speaks of, a command keeps it (`exec_keeps_inv`),
and a reset event establishes it again. -/
theorem stepKeepsTheInvariant : Obligations.StepKeepsTheInvariant := by
  intro s t hs hstep
  obtain ⟨-, rfl⟩ | ⟨x, xs, -, hperform⟩ := step_next_cases hstep
  · exact hs
  · have hs' : Inv { s with pending := xs } := hs
    obtain ⟨a, -, -, rfl⟩ | ⟨w, -, hexec⟩ | ⟨a, v, -, -, -, rfl⟩ | ⟨-, rfl⟩ :=
      perform_next_cases hperform
    · exact hs'
    · exact exec_keeps_inv hs' hexec
    · obtain ⟨hcfg, hstatus, hband, houten, hobuf, hplans, -⟩ := poke_keeps { s with pending := xs } a v
      exact inv_of_same_results hs' hcfg hstatus hband hobuf houten hplans
    · exact inv_resetFor hs.1

end Sys2Proof.Machine
end
